-- ==== Sys2Proof/Word.lean ====
section
/-! DEFINITION. The word types of the block. Every value of the block is an unsigned integer of a stated width, bit 0 the
least significant (spec/00_scope.md R11): a byte of a transfer, a 24-bit flash address (R8 `ADDR_BITS`), a 16-bit
manufacturer and device identifier (R8 `ID_BITS`). -/

namespace Sys2Proof

/-- Eight bits: what one `XFER` moves each way (20_memory.md R66). -/
abbrev Byte := BitVec 8

/-- A 24-bit unsigned offset into the flash array (00_scope.md R8, `ADDR_BITS`). -/
abbrev Addr := BitVec 24

/-- The 16-bit manufacturer and device identifier (00_scope.md R8, `ID_BITS`). -/
abbrev Ident := BitVec 16

end Sys2Proof
end

