-- ==== Sys2Proof/Config.lean ====
section
/-! DEFINITION. The parameters of the block (00_scope.md R8 to R10), the values an instance is constructed with, and the free
values: constants with no body, so that no proof can know them. The parameters the source leaves open (R10) are a structure
that State holds, so that a statement about every state holds for every choice of them. -/

namespace Sys2Proof

/-- The 14 wire opcode bytes `OPC_<mnemonic>` (30_encoding.md R101). -/
structure Opcodes where
  arrayReadLF : Byte
  arrayRead : Byte
  pageProgram : Byte
  blockErase4K : Byte
  blockErase32K : Byte
  blockErase64K : Byte
  chipErase : Byte
  statusRead : Byte
  statusWrite : Byte
  writeEnable : Byte
  idRead : Byte
  uidRead : Byte
  sleep : Byte
  wake : Byte
  deriving DecidableEq, Repr

/-- The 14 values, in the order of the table of R101. -/
def Opcodes.bytes (o : Opcodes) : List Byte :=
  [o.arrayReadLF, o.arrayRead, o.pageProgram, o.blockErase4K, o.blockErase32K, o.blockErase64K, o.chipErase,
    o.statusRead, o.statusWrite, o.writeEnable, o.idRead, o.uidRead, o.sleep, o.wake]

/-- "the 14 values must be pairwise distinct" (30_encoding.md R101, decision D20). -/
abbrev Opcodes.distinct (o : Opcodes) : Prop := o.bytes.Nodup

/-- The parameters the source leaves open and a model takes as arguments (00_scope.md R10), less `FLASH_BYTES`, which belongs
to the chip. -/
structure Params where
  opcodes : Opcodes
  /-- `FILL`, the byte sent in every filler and response position. -/
  fill : Byte
  /-- `LEN_BITS`, the width of the length operand of `readBytes` and `writeBytes`. -/
  lenBits : Nat
  deriving DecidableEq, Repr

/-- What R10 asks of the parameters: the opcodes pairwise distinct, `LEN_BITS >= 9`. -/
abbrev Params.wf (p : Params) : Prop := p.opcodes.distinct ∧ 9 ≤ p.lenBits

/-- The chip-select line identifier, opaque: "its type and width are not in the source" (00_scope.md R9). -/
structure CsId where
  line : Nat
  deriving DecidableEq, Repr, Inhabited

/-- The bus configuration (clock rate, mode, bit order), a triple of opaque values the block never interprets
(00_scope.md R9, decision D22). -/
structure BusCfg where
  clockRate : Nat
  mode : Nat
  bitOrder : Nat
  deriving DecidableEq, Repr, Inhabited

/-- The default opcode values of 30_encoding.md R101. PRESUMED (93_implementation_defined.md G1; assumption log 5): unsafe only
for a statement about literal bytes, since statements hold for every `Params`. -/
def Config.opcodes : Opcodes where
  arrayReadLF := 0x03
  arrayRead := 0x0B
  pageProgram := 0x02
  blockErase4K := 0x20
  blockErase32K := 0x52
  blockErase64K := 0xD8
  chipErase := 0x60
  statusRead := 0x05
  statusWrite := 0x01
  writeEnable := 0x06
  idRead := 0x9F
  uidRead := 0x4B
  sleep := 0xB9
  wake := 0xAB

/-- The default parameters: the default opcodes, `FILL = 0x00` (G3), `LEN_BITS = 16` (D6, G10). PRESUMED (assumption log 5):
unsafe for a statement about these literal values only. -/
def Config.params : Params where
  opcodes := Config.opcodes
  fill := 0x00
  lenBits := 16

/-- `CS_ID` as given at construction (00_scope.md R9): no proof knows it. DESIGN CHOICE (assumption log 6): safe. -/
opaque Config.csId : CsId

/-- `BUS_CFG` as given at construction (00_scope.md R9): no proof knows it. DESIGN CHOICE (assumption log 6): safe. -/
opaque Config.busCfg : BusCfg

/-- `EXPECTED_ID` as given at construction (00_scope.md R9): no proof knows it. DESIGN CHOICE (assumption log 6): safe. -/
opaque Config.expectedId : Ident

/-- What a register whose reset value is "unspecified" holds at reset, by its name and width (10_state.md R36, "any value" in
93_implementation_defined.md U14). DESIGN CHOICE (assumption log 7): a free constant, unsafe only in being one value for every
run. -/
opaque Config.unspecified (register : String) (width : Nat) : BitVec width

/-- The n-th free draw of the environment: a received byte on which the block's rules place no constraint (00_scope.md R16,
20_memory.md R88). DESIGN CHOICE (assumption log 8): safe. -/
opaque Config.lineByte : Nat → Byte

/-- How many status reads a program or erase started at the n-th draw stays busy, in a chip of which only R79 is assumed: some
finite number. DESIGN CHOICE (assumption log 11): safe. -/
opaque Config.busyPolls : Nat → Nat

/-- How many frames sent after a `WAKE` the chip still ignores, in a chip of which only R85 is assumed: some finite number, which may be
0 (20_memory.md R85, 91_not_in_source.md N9, 70_reset_and_hazards.md R312). DESIGN CHOICE (assumption log 21): safe for the block, no rule
of which depends on it. -/
opaque Config.wakeFrames : Nat → Nat

/-- Array contents after an event for which the source gives the chip no behaviour: any bytes anywhere
(93_implementation_defined.md U2). DESIGN CHOICE (assumption log 11): safe. -/
opaque Config.chipCells : Nat → List (Nat × Byte)

end Sys2Proof
end

