-- ==== Sys2Proof/Syntax.lean ====
section
/-! DEFINITION. The instructions of the block, one constructor per row of spec/opcode_table.json: the 14 wire commands
(30_encoding.md R101 to R115) and the 18 host operations (R120), with the operands R121 gives them. The caller's buffer is an operand
passed by reference (10_state.md R31); the bytes it refers to are the field `hostMem` of State. -/

namespace Sys2Proof

/-- The 14 wire commands as names (30_encoding.md R101), for everything that depends on the command and not on its operands. -/
inductive Wire where
  | arrayReadLF | arrayRead | pageProgram | blockErase4K | blockErase32K | blockErase64K | chipErase
  | statusRead | statusWrite | writeEnable | idRead | uidRead | sleep | wake
  deriving DecidableEq, Repr

/-- A reference to a caller's buffer (10_state.md R31, 30_encoding.md R121): where its byte 0 lies in the host's memory, so that `buf[i]`
is the byte at `buf + i`. DESIGN CHOICE (assumption log 13): safe. -/
abbrev BufRef := Nat

/-- What `readBytes` fills and `writeBytes` reads: `buf[0 .. len-1]` of a caller's buffer (R121), with the buffer by reference and the
length as two operands of the request. -/
structure Span where
  buf : BufRef
  len : Nat
  deriving DecidableEq, Repr

/-- One constructor per row of the opcode table. A constructor ending in `Cmd`, and those named after a command of the table,
are wire commands; the others are host operations. -/
inductive Instr where
  -- wire commands (30_encoding.md R102 to R115)
  /-- `ARRAY_READ_LF` (R102) at address `addr`. -/
  | arrayReadLF (addr : Addr)
  /-- `ARRAY_READ` (R103) at address `addr`, `n` response bytes. -/
  | arrayRead (addr : Addr) (n : Nat)
  /-- `PAGE_PROGRAM` (R104) at address `addr` with its payload. -/
  | pageProgram (addr : Addr) (payload : List Byte)
  /-- `BLOCK_ERASE_4K` (R105). -/
  | blockErase4KCmd (addr : Addr)
  /-- `BLOCK_ERASE_32K` (R106). -/
  | blockErase32KCmd (addr : Addr)
  /-- `BLOCK_ERASE_64K` (R107). -/
  | blockErase64KCmd (addr : Addr)
  /-- `CHIP_ERASE` (R108). -/
  | chipEraseCmd
  /-- `STATUS_READ` (R109). -/
  | statusRead
  /-- `STATUS_WRITE` (R110) with the value byte `v`. -/
  | statusWrite (v : Byte)
  /-- `WRITE_ENABLE` (R111). -/
  | writeEnable
  /-- `ID_READ` (R112). -/
  | idRead
  /-- `UID_READ` (R113). -/
  | uidRead
  /-- `SLEEP` (R114). -/
  | sleepCmd
  /-- `WAKE` (R115). -/
  | wakeCmd
  -- host operations (R120)
  /-- `isBusy()` (40_dispatcher.md R148). -/
  | isBusy
  /-- `readStatusRegister()` (R149). -/
  | readStatusRegister
  /-- `readByte(addr)` (41_read.md R170). -/
  | readByte (addr : Addr)
  /-- `readBytes(addr, buf, len)` (R171). -/
  | readBytes (addr : Addr) (span : Span)
  /-- `regionIsEmpty(addr, len)` (R172): an 8-bit length, so the bound 255 cannot be broken (R121). -/
  | regionIsEmpty (addr : Addr) (len : Byte)
  /-- `writeByte(addr, value)` (42_write.md R185). -/
  | writeByte (addr : Addr) (value : Byte)
  /-- `writeBytes(addr, buf, len)` (R187). -/
  | writeBytes (addr : Addr) (span : Span)
  /-- `eraseBlock4K(addr)` (43_erase.md R200). -/
  | eraseBlock4K (addr : Addr)
  /-- `eraseBlock32K(addr)` (R201). -/
  | eraseBlock32K (addr : Addr)
  /-- `eraseBlock64K(addr)` (R202). -/
  | eraseBlock64K (addr : Addr)
  /-- `eraseChip()` (R203). -/
  | eraseChip
  /-- The operation that brings the block up (44_lifecycle.md R215). -/
  | initDevice
  /-- `readDeviceId()` (R216). -/
  | readDeviceId
  /-- `readUniqueId()` (R217). -/
  | readUniqueId
  /-- `found()` (R218). -/
  | found
  /-- `sleep()` (R219). -/
  | sleep
  /-- `wakeup()` (R220). -/
  | wakeup
  /-- `end()` (R222). -/
  | endSession
  deriving DecidableEq, Repr

/-- The wire command an instruction is, if it is one. -/
def Instr.wire? : Instr → Option Wire
  | .arrayReadLF _ => some .arrayReadLF
  | .arrayRead _ _ => some .arrayRead
  | .pageProgram _ _ => some .pageProgram
  | .blockErase4KCmd _ => some .blockErase4K
  | .blockErase32KCmd _ => some .blockErase32K
  | .blockErase64KCmd _ => some .blockErase64K
  | .chipEraseCmd => some .chipErase
  | .statusRead => some .statusRead
  | .statusWrite _ => some .statusWrite
  | .writeEnable => some .writeEnable
  | .idRead => some .idRead
  | .uidRead => some .uidRead
  | .sleepCmd => some .sleep
  | .wakeCmd => some .wake
  | .isBusy => none
  | .readStatusRegister => none
  | .readByte _ => none
  | .readBytes _ _ => none
  | .regionIsEmpty _ _ => none
  | .writeByte _ _ => none
  | .writeBytes _ _ => none
  | .eraseBlock4K _ => none
  | .eraseBlock32K _ => none
  | .eraseBlock64K _ => none
  | .eraseChip => none
  | .initDevice => none
  | .readDeviceId => none
  | .readUniqueId => none
  | .found => none
  | .sleep => none
  | .wakeup => none
  | .endSession => none

/-- A host request as the operation latch takes it (10_state.md R31): the 5-bit selector `op_sel` (30_encoding.md R120) and the
operands, each present for every selector and read only by the operations that have it. The source gives no binary form (N16);
this record is the model's. DESIGN CHOICE (assumption log 2): safe. -/
structure HostRequest where
  sel : BitVec 5
  addr : Addr
  len : Nat
  value : Byte
  buf : BufRef
  deriving DecidableEq, Repr

/-- What can be asked of the block when it is idle: a host request (60_exceptions.md R268), or a wire command's frame, given as
the bytes the block sends. The second is the model's own: it runs one wire command by itself, as the operations run it; no host
request decodes to it (20_memory.md R60). DESIGN CHOICE (assumption log 3): safe. -/
inductive Request where
  | host (r : HostRequest)
  | frame (bytes : List Byte)
  deriving DecidableEq, Repr

end Sys2Proof
end

