-- ==== Sys2Proof/WellFormed.lean ====
section
/-! DEFINITION. Which instructions the encodings of 30_encoding.md can express, under given parameters: the length operand of
`readBytes` and `writeBytes` has `LEN_BITS` bits (R121); a `PAGE_PROGRAM` payload has 1 to 256 bytes and stays in one 256-byte page
(R104, R119); a `STATUS_WRITE` value is 0x00 (R110, R119). Every other operand is legal at every value (R121). -/

namespace Sys2Proof

/-- A length operand of `LEN_BITS` bits (R121). -/
abbrev lengthFits (p : Params) (len : Nat) : Prop := len < 2 ^ p.lenBits

/-- The payload starting at `addr` ends in the page it starts in (20_memory.md R65: the page of an address is `a / 256`). -/
abbrev staysInPage (addr : Addr) (size : Nat) : Prop := addr.toNat % 256 + size ≤ 256

/-- The instruction is one the encodings express, decided. -/
def Instr.wf (p : Params) (i : Instr) : Bool :=
  match i with
  | .arrayRead _ n => decide (lengthFits p n)
  | .pageProgram addr payload => decide (1 ≤ payload.length) && decide (staysInPage addr payload.length)
  | .statusWrite v => v == 0x00
  | .readBytes _ span => decide (lengthFits p span.len)
  | .writeBytes _ span => decide (lengthFits p span.len)
  | .arrayReadLF _ | .blockErase4KCmd _ | .blockErase32KCmd _ | .blockErase64KCmd _ | .chipEraseCmd | .statusRead
  | .writeEnable | .idRead | .uidRead | .sleepCmd | .wakeCmd => true
  | .isBusy | .readStatusRegister | .readByte _ | .regionIsEmpty _ _ | .writeByte _ _ | .eraseBlock4K _
  | .eraseBlock32K _ | .eraseBlock64K _ | .eraseChip | .initDevice | .readDeviceId | .readUniqueId | .found
  | .sleep | .wakeup | .endSession => true

end Sys2Proof
end

