-- ==== Sys2Proof/Decode.lean ====
section
/-! DEFINITION. Decoding and encoding. A wire command is decoded from the bytes of its frame: the first byte determines the
mnemonic and the format, and the frame's length determines `n` (30_encoding.md R118); frames the block never emits (R119) are
rejected by name. A host request is decoded from its selector (R120); selectors 18 to 31 and lengths that do not fit are
rejected by name (R122, 93_implementation_defined.md U10). The encoder follows the same tables. -/

namespace Sys2Proof

/-- Why bytes or a request are no instruction. Each is a refusal without bus activity and without a change of state
(30_encoding.md R119, R122): safe. -/
inductive DecodeError where
  /-- Selector values 18 to 31 name no operation (R122). -/
  | unknownSelector (sel : BitVec 5)
  /-- The length operand does not fit `LEN_BITS` bits (R121). -/
  | lengthTooWide (len : Nat)
  /-- `regionIsEmpty` with a length above 255 (93_implementation_defined.md U10). -/
  | regionTooLong (len : Nat)
  /-- A frame without an opcode byte (R100: byte 0 is always the opcode). -/
  | emptyFrame
  /-- A first byte that is none of the 14 opcodes (R119). -/
  | unknownOpcode (opc : Byte)
  /-- A length the command's format does not have (R119). -/
  | badFrameLength (opc : Byte)
  /-- A filler or response position that does not send `FILL` (R100, R117). -/
  | badFiller (opc : Byte)
  /-- A `STATUS_WRITE` with a value other than 0x00 (R119). -/
  | statusValueNotZero (v : Byte)
  /-- A `PAGE_PROGRAM` payload that runs past the end of its page (R104, R119). -/
  | payloadCrossesPage (addr : Addr)
  deriving DecidableEq, Repr

/-! ## The opcode bytes -/

/-- All 14 commands, in the order of the table of R101. -/
def Wire.all : List Wire :=
  [.arrayReadLF, .arrayRead, .pageProgram, .blockErase4K, .blockErase32K, .blockErase64K, .chipErase,
    .statusRead, .statusWrite, .writeEnable, .idRead, .uidRead, .sleep, .wake]

/-- The opcode byte of a command (R101). -/
def Opcodes.byte (o : Opcodes) : Wire → Byte
  | .arrayReadLF => o.arrayReadLF
  | .arrayRead => o.arrayRead
  | .pageProgram => o.pageProgram
  | .blockErase4K => o.blockErase4K
  | .blockErase32K => o.blockErase32K
  | .blockErase64K => o.blockErase64K
  | .chipErase => o.chipErase
  | .statusRead => o.statusRead
  | .statusWrite => o.statusWrite
  | .writeEnable => o.writeEnable
  | .idRead => o.idRead
  | .uidRead => o.uidRead
  | .sleep => o.sleep
  | .wake => o.wake

/-- The command a first byte names, if any (R118). -/
def Opcodes.find? (o : Opcodes) (b : Byte) : Option Wire := Wire.all.find? (fun w => o.byte w == b)

/-! ## The address codec (R116) -/

/-- `a[23:16]`. -/
def addrHigh (a : Addr) : Byte := a.extractLsb' 16 8
/-- `a[15:8]`. -/
def addrMid (a : Addr) : Byte := a.extractLsb' 8 8
/-- `a[7:0]`. -/
def addrLow (a : Addr) : Byte := a.extractLsb' 0 8

/-- The three address bytes, most significant first (R116). -/
def addrBytes (a : Addr) : List Byte := [addrHigh a, addrMid a, addrLow a]

/-- The address whose bytes are `a2`, `a1`, `a0`. -/
def joinAddr (a2 a1 a0 : Byte) : Addr := a2 ++ a1 ++ a0

/-! ## Wire frames (R100, R102 to R115) -/

/-- The bytes the block sends in a wire command's frame, in order (R100); no bytes for a host operation. -/
def encodeFrame (p : Params) : Instr → List Byte
  | .arrayReadLF a => p.opcodes.arrayReadLF :: addrBytes a ++ [p.fill]
  | .arrayRead a n => p.opcodes.arrayRead :: addrBytes a ++ [p.fill] ++ List.replicate n p.fill
  | .pageProgram a d => p.opcodes.pageProgram :: addrBytes a ++ d
  | .blockErase4KCmd a => p.opcodes.blockErase4K :: addrBytes a
  | .blockErase32KCmd a => p.opcodes.blockErase32K :: addrBytes a
  | .blockErase64KCmd a => p.opcodes.blockErase64K :: addrBytes a
  | .chipEraseCmd => [p.opcodes.chipErase]
  | .statusRead => [p.opcodes.statusRead, p.fill]
  | .statusWrite v => [p.opcodes.statusWrite, v]
  | .writeEnable => [p.opcodes.writeEnable]
  | .idRead => [p.opcodes.idRead, p.fill, p.fill]
  | .uidRead => p.opcodes.uidRead :: List.replicate 12 p.fill
  | .sleepCmd => [p.opcodes.sleep]
  | .wakeCmd => [p.opcodes.wake]
  | .isBusy | .readStatusRegister | .readByte _ | .readBytes _ _ | .regionIsEmpty _ _ | .writeByte _ _
  | .writeBytes _ _ | .eraseBlock4K _ | .eraseBlock32K _ | .eraseBlock64K _ | .eraseChip | .initDevice
  | .readDeviceId | .readUniqueId | .found | .sleep | .wakeup | .endSession => []

/-- The rest of a frame that must be exactly `k` filler bytes. -/
def onlyFill (p : Params) (opc : Byte) (k : Nat) (rest : List Byte) (i : Instr) : Except DecodeError Instr :=
  if rest.length = k then
    if rest.all (· == p.fill) then .ok i else .error (.badFiller opc)
  else .error (.badFrameLength opc)

/-- The rest of a frame that begins with an address. -/
def withAddr (opc : Byte) (rest : List Byte) (k : Addr → List Byte → Except DecodeError Instr) :
    Except DecodeError Instr :=
  match rest with
  | a2 :: a1 :: a0 :: body => k (joinAddr a2 a1 a0) body
  | _ => .error (.badFrameLength opc)

/-- The rest of a frame of format `F_OP_A`. -/
def addrAlone (opc : Byte) (rest : List Byte) (i : Addr → Instr) : Except DecodeError Instr :=
  withAddr opc rest fun a body => if body = [] then .ok (i a) else .error (.badFrameLength opc)

/-- The rest of a frame after the opcode of command `w`, by the formats of R100. -/
def decodeBody (p : Params) (opc : Byte) (w : Wire) (rest : List Byte) : Except DecodeError Instr :=
  match w with
  | .arrayReadLF => withAddr opc rest fun a body => onlyFill p opc 1 body (.arrayReadLF a)
  | .arrayRead => withAddr opc rest fun a body =>
      match body with
      | [] => .error (.badFrameLength opc)
      | _ :: more =>
        if lengthFits p more.length then onlyFill p opc (more.length + 1) body (.arrayRead a more.length)
        else .error (.lengthTooWide more.length)
  | .pageProgram => withAddr opc rest fun a d =>
      if d = [] then .error (.badFrameLength opc)
      else if staysInPage a d.length then .ok (.pageProgram a d)
      else .error (.payloadCrossesPage a)
  | .blockErase4K => addrAlone opc rest .blockErase4KCmd
  | .blockErase32K => addrAlone opc rest .blockErase32KCmd
  | .blockErase64K => addrAlone opc rest .blockErase64KCmd
  | .chipErase => onlyFill p opc 0 rest .chipEraseCmd
  | .statusRead => onlyFill p opc 1 rest .statusRead
  | .statusWrite =>
      match rest with
      | [v] => if v = 0x00 then .ok (.statusWrite v) else .error (.statusValueNotZero v)
      | _ => .error (.badFrameLength opc)
  | .writeEnable => onlyFill p opc 0 rest .writeEnable
  | .idRead => onlyFill p opc 2 rest .idRead
  | .uidRead => onlyFill p opc 12 rest .uidRead
  | .sleep => onlyFill p opc 0 rest .sleepCmd
  | .wake => onlyFill p opc 0 rest .wakeCmd

/-- The wire command whose frame the bytes are (R118), total on any bytes. -/
def decodeFrame (p : Params) : List Byte → Except DecodeError Instr
  | [] => .error .emptyFrame
  | opc :: rest =>
    match p.opcodes.find? opc with
    | none => .error (.unknownOpcode opc)
    | some w => decodeBody p opc w rest

/-! ## Host requests (R120 to R122) -/

/-- A length operand of `LEN_BITS` bits. -/
def withLength (p : Params) (len : Nat) (i : Instr) : Except DecodeError Instr :=
  if lengthFits p len then .ok i else .error (.lengthTooWide len)

/-- The host operation a request names (R120), total on any request. -/
def decodeHost (p : Params) (r : HostRequest) : Except DecodeError Instr :=
  match r.sel.toNat with
  | 0 => .ok .isBusy
  | 1 => .ok .readStatusRegister
  | 2 => .ok (.readByte r.addr)
  | 3 => withLength p r.len (.readBytes r.addr ⟨r.buf, r.len⟩)
  | 4 => if r.len ≤ 255 then .ok (.regionIsEmpty r.addr (BitVec.ofNat 8 r.len)) else .error (.regionTooLong r.len)
  | 5 => .ok (.writeByte r.addr r.value)
  | 6 => withLength p r.len (.writeBytes r.addr ⟨r.buf, r.len⟩)
  | 7 => .ok (.eraseBlock4K r.addr)
  | 8 => .ok (.eraseBlock32K r.addr)
  | 9 => .ok (.eraseBlock64K r.addr)
  | 10 => .ok .eraseChip
  | 11 => .ok .initDevice
  | 12 => .ok .readDeviceId
  | 13 => .ok .readUniqueId
  | 14 => .ok .found
  | 15 => .ok .sleep
  | 16 => .ok .wakeup
  | 17 => .ok .endSession
  | _ => .error (.unknownSelector r.sel)

/-- What the block is asked, decoded. -/
def decode (p : Params) : Request → Except DecodeError Instr
  | .host r => decodeHost p r
  | .frame bytes => decodeFrame p bytes

/-- The selector `op_sel` of a host operation (R120); `none` for a wire command. -/
def Instr.sel? : Instr → Option (BitVec 5)
  | .isBusy => some 0
  | .readStatusRegister => some 1
  | .readByte _ => some 2
  | .readBytes _ _ => some 3
  | .regionIsEmpty _ _ => some 4
  | .writeByte _ _ => some 5
  | .writeBytes _ _ => some 6
  | .eraseBlock4K _ => some 7
  | .eraseBlock32K _ => some 8
  | .eraseBlock64K _ => some 9
  | .eraseChip => some 10
  | .initDevice => some 11
  | .readDeviceId => some 12
  | .readUniqueId => some 13
  | .found => some 14
  | .sleep => some 15
  | .wakeup => some 16
  | .endSession => some 17
  | .arrayReadLF _ | .arrayRead _ _ | .pageProgram _ _ | .blockErase4KCmd _ | .blockErase32KCmd _
  | .blockErase64KCmd _ | .chipEraseCmd | .statusRead | .statusWrite _ | .writeEnable | .idRead | .uidRead
  | .sleepCmd | .wakeCmd => none

/-- The operands of a host operation as a request carries them; an operand the operation lacks is 0. -/
def Instr.operands : Instr → Addr × Nat × Byte × BufRef
  | .readByte a | .eraseBlock4K a | .eraseBlock32K a | .eraseBlock64K a => (a, 0, 0, 0)
  | .readBytes a span | .writeBytes a span => (a, span.len, 0, span.buf)
  | .regionIsEmpty a len => (a, len.toNat, 0, 0)
  | .writeByte a v => (a, 0, v, 0)
  | .isBusy | .readStatusRegister | .eraseChip | .initDevice | .readDeviceId | .readUniqueId | .found | .sleep
  | .wakeup | .endSession => (0, 0, 0, 0)
  | .arrayReadLF _ | .arrayRead _ _ | .pageProgram _ _ | .blockErase4KCmd _ | .blockErase32KCmd _
  | .blockErase64KCmd _ | .chipEraseCmd | .statusRead | .statusWrite _ | .writeEnable | .idRead | .uidRead
  | .sleepCmd | .wakeCmd => (0, 0, 0, 0)

/-- The request that asks for an instruction: its selector and operands for a host operation (R120, R121), the bytes of its
frame for a wire command (R100). -/
def encode (p : Params) (i : Instr) : Request :=
  match i.sel? with
  | some sel =>
    let (addr, len, value, buf) := i.operands
    .host ⟨sel, addr, len, value, buf⟩
  | none => .frame (encodeFrame p i)

/-! ## Words of the opcode table -/

/-- How many bytes the shortest frame of a command has (R100, with `n = 0` for `F_OP_A_X_R` and `n = 1` for `F_OP_A_W`). -/
def Wire.minFrame : Wire → Nat
  | .arrayReadLF => 5
  | .arrayRead => 5
  | .pageProgram => 5
  | .blockErase4K => 4
  | .blockErase32K => 4
  | .blockErase64K => 4
  | .chipErase => 1
  | .statusRead => 2
  | .statusWrite => 2
  | .writeEnable => 1
  | .idRead => 3
  | .uidRead => 13
  | .sleep => 1
  | .wake => 1

/-- The low `k` bytes of a word, the least significant first. -/
def wordBytes : Nat → Nat → List Byte
  | 0, _ => []
  | k + 1, w => BitVec.ofNat 8 w :: wordBytes k (w / 256)

/-- The request a word of the opcode table stands for. The table gives both kinds of row their first 8 bits only, and six values
(01, 02, 03, 05, 06, 0B) are an opcode of one row and a selector of another: a word of at most 8 bits below 18 is taken as a
selector, since what the block takes from idle is a host request (10_state.md R30, R31); every other word is a frame, the bytes
above `nbits` zero. DESIGN CHOICE (assumption log 4): safe. -/
def tableRequest (p : Params) (nbits w : Nat) : Request :=
  if nbits ≤ 8 ∧ w < 18 then .host ⟨BitVec.ofNat 5 w, 0, 0, 0, 0⟩
  else
    let first : Byte := BitVec.ofNat 8 w
    let size := match p.opcodes.find? first with
      | some c => max c.minFrame ((nbits + 7) / 8)
      | none => (nbits + 7) / 8
    .frame (wordBytes size (w % 2 ^ nbits))

/-- The instruction the decoder reads from a word of the opcode table, under the default parameters. -/
def decodeTableWord (nbits w : Nat) : Option Instr :=
  match decode Config.params (tableRequest Config.params nbits w) with
  | .ok i => some i
  | .error _ => none

end Sys2Proof
end

