-- ==== Sys2Proof/Machine/State.lean ====
section
/-! DEFINITION. The state of the machine, as plain data: every piece of state the spec gives the block (spec/10_state.md R20), the
host's side of the interface (60_exceptions.md R268), the bus trace (00_scope.md R12), and the environment that answers each
transfer (00_scope.md R16), which may hold a flash chip (20_memory.md R76 to R88). With it the reasons a step can stop, and the
state after reset (R36). -/

namespace Sys2Proof.Machine

/-! ## Small types -/

/-- `SESSION` (10_state.md R24). -/
inductive Session where
  | constructed | active | ended
  deriving DecidableEq, Repr

/-- A level of the chip-select line: low selects the chip, high deselects it (00_scope.md R12). -/
inductive Level where
  | low | high
  deriving DecidableEq, Repr

/-- A transport event (00_scope.md R12). -/
inductive Event where
  /-- `PINMODE_OUT(CS_ID)`. -/
  | pinmodeOut (cs : CsId)
  /-- `BUS_START`. -/
  | busStart
  /-- `BUS_STOP`. -/
  | busStop
  /-- `BEGIN(BUS_CFG)`. -/
  | begin (cfg : BusCfg)
  /-- `END`. -/
  | finish
  /-- `CS(level)`. -/
  | cs (level : Level)
  /-- `XFER(out, in)`: the byte sent and the byte received. -/
  | xfer (sent received : Byte)
  deriving DecidableEq, Repr

/-- What the host gets back (60_exceptions.md R270, the "result" column of 30_encoding.md R120). -/
inductive Result where
  /-- The operation returned and has no result. -/
  | done
  | bit (b : Bool)
  | byte (b : Byte)
  | ident (id : Ident)
  | uid (bytes : Vector Byte 8)
  /-- The result is in the caller's buffer, indexes `0 .. len-1`. -/
  | buffer (len : Nat)
  deriving DecidableEq, Repr

/-! ## Micro-operations: the control position

The control position is "which operation is running and how far its pseudocode has advanced, that is, which transport event is
emitted next" (10_state.md R30). It is held as the list of the micro-operations still to run, each of which emits at most one
transport event. -/

/-- Where the byte an `xfer` sends comes from. -/
inductive Out where
  /-- A byte the pseudocode writes out or an operand of the operation. -/
  | byte (b : Byte)
  /-- The opcode of a wire command. -/
  | opcode (w : Wire)
  /-- `FILL`. -/
  | fill
  /-- `A[23:16]`. -/
  | addrHigh
  /-- `A[15:8]`. -/
  | addrMid
  /-- `A[7:0]`. -/
  | addrLow
  /-- `buf[OFF + i]` of the buffer at `ref` (42_write.md R186). -/
  | buf (ref : BufRef) (i : Nat)
  deriving DecidableEq, Repr

/-- What an `xfer` does with the byte it receives. -/
inductive Keep where
  /-- Discarded (decision D14). -/
  | drop
  /-- `ST <- r`. -/
  | st
  /-- `v <- r` (41_read.md R170). -/
  | v
  /-- `hi <- r` (44_lifecycle.md R216). -/
  | hi
  /-- `lo <- r` (R216). -/
  | lo
  /-- `UID[i] <- r` (R217). -/
  | uid (i : Fin 8)
  /-- `buf[i] <- r` in the buffer at `ref` (41_read.md R171). -/
  | buf (ref : BufRef) (i : Nat)
  /-- `if r != 0xFF then ALL_FF <- false` (R172). -/
  | allFF
  deriving DecidableEq, Repr

/-- Which value a `return` hands to the host. -/
inductive Ret where
  | done
  | const (b : Bool)
  | busy
  | status
  | datum
  | allFF
  | ident
  | uid
  | buffer (len : Nat)
  deriving DecidableEq, Repr

/-- One step of an operation's pseudocode (40_dispatcher.md R140 to R146 and the operation rules). -/
inductive Micro where
  /-- `emit(PINMODE_OUT(CS_ID)); CS_OUT <- true`. -/
  | pinOut
  /-- `emit(BUS_START); SESSION <- active`. -/
  | busStart
  /-- `emit(BUS_STOP); SESSION <- ended`. -/
  | busStop
  /-- `emit(BEGIN(BUS_CFG)); BUS_HELD <- true`. -/
  | begin
  /-- `emit(END); BUS_HELD <- false`. -/
  | finish
  /-- `emit(CS(low)); CS_LEVEL <- low`. -/
  | csLow
  /-- `emit(CS(high)); CS_LEVEL <- high`. -/
  | csHigh
  /-- `xfer(out)`, the received byte going where `keep` says. -/
  | xfer (out : Out) (keep : Keep)
  /-- The exit test of `gate()`: go on if bit 0 of `ST` is clear, else poll again (R145). -/
  | gateTest
  /-- `A <- addr`. -/
  | setA (addr : Addr)
  /-- `ALL_FF <- true`. -/
  | setAllFF
  /-- `REM <- len; OFF <- 0; CAP <- 256 - (A mod 256)` (42_write.md R187). -/
  | planStart (len : Nat)
  /-- `N <- min(REM, CAP)` (R187). -/
  | takeChunk
  /-- `A <- (A + N) mod 2^24; OFF <- OFF + N; REM <- REM - N; CAP <- 256` (R187). -/
  | advance
  /-- `IDR <- hi ++ lo` (44_lifecycle.md R216). -/
  | setIdr
  /-- `if IDR != EXPECTED_ID then return false` (R215). -/
  | checkId
  /-- `UID_VALID <- true` (R217). -/
  | setUidValid
  /-- `CNT <- k` (R218). -/
  | setCnt (k : BitVec 4)
  /-- `if CNT = 1 then FIRST <- IDR`, then `return false` if the sample breaks a requirement (R218). -/
  | judge
  /-- `return`. -/
  | ret (r : Ret)
  deriving DecidableEq, Repr

/-! ## Memory and the environment -/

/-- Bytes by address: the flash array of a chip (20_memory.md R69) and the host's memory with the callers' buffers (30_encoding.md R121). A list of cells
in one canonical form (`Memory.wf`); an address it does not list reads as `Memory.blank`. -/
abbrev Memory := List Host.Cell

/-- Which answer a chip gives where 20_memory.md R77 to R88 give none. -/
inductive Gaps where
  /-- The reference chip of 95_test_vectors.md section 0 (decision D26). -/
  | reference
  /-- Free values (93_implementation_defined.md U2, U5, U12). -/
  | free
  deriving DecidableEq, Repr

/-- A flash chip: environment, not part of the block (20_memory.md R76); the state that 20_memory.md R77 to R88 and
95_test_vectors.md section 0 give it. -/
structure Chip where
  /-- `FLASH_BYTES` (00_scope.md R10); its range is `Chip.fits`. -/
  flashBytes : Nat
  /-- The flash array (R69). -/
  mem : Memory
  /-- The protection bits of the status register (10_state.md R33, R88). -/
  prot : Byte
  /-- The write-enable latch (R78). -/
  wel : Bool
  /-- How many status reads are still answered "busy" (R79); 0 when no program or erase is in progress. -/
  busy : Nat
  /-- The power state (R84, R85). -/
  asleep : Bool
  /-- How many more frames are ignored after a wake (R85, 70_reset_and_hazards.md R312; assumption log 21). -/
  waking : Nat
  /-- The manufacturer and device identifier (R86). -/
  ident : Ident
  /-- The factory-programmed unique identifier (R87). -/
  uid : Vector Byte 8
  /-- `K_PP`: how many status reads a program stays busy (95 section 0). -/
  kProgram : Nat
  /-- `K_ER`: how many status reads an erase stays busy (95 section 0). -/
  kErase : Nat
  gaps : Gaps
  /-- The bytes the block has sent since the last `CS(low)`. -/
  frame : List Byte
  deriving DecidableEq, Repr

/-- The environment that answers each `XFER` (00_scope.md R16). -/
inductive Env where
  /-- A data line of which nothing is assumed (R16, 20_memory.md R88): the bytes of the script first, then free draws. The script
  is the "scripted environment" of 95_test_vectors.md section 0, one byte for every transfer. -/
  | line (script : List Byte)
  /-- A flash chip answers. -/
  | chip (c : Chip)
  deriving DecidableEq, Repr

/-! ## The state -/

/-- Everything a step reads and writes. -/
structure State where
  /-- `OPC_*`, `FILL`, `LEN_BITS` (00_scope.md R10): constants of the instance. -/
  params : Params
  /-- `CS_ID` (10_state.md R21). -/
  csId : CsId
  /-- `BUS_CFG` (R22). -/
  busCfg : BusCfg
  /-- `EXPECTED_ID` (R23). -/
  expectedId : Ident
  /-- `SESSION` (R24). -/
  session : Session
  /-- `BUS_HELD` (R25). -/
  busHeld : Bool
  /-- `CS_OUT` (R26). -/
  csOut : Bool
  /-- `CS_LEVEL` (R26). -/
  csLevel : Level
  /-- `UID[0..7]` (R27). -/
  uid : Vector Byte 8
  /-- `UID_VALID` (R28). -/
  uidValid : Bool
  /-- `A`, 24 bits (R29). -/
  a : Addr
  /-- `REM`, `LEN_BITS` bits (R29). -/
  rem : Nat
  /-- `OFF`, `LEN_BITS` bits (R29). -/
  off : Nat
  /-- `CAP`, 9 bits (R29). -/
  cap : BitVec 9
  /-- `N`, 9 bits (R29). -/
  n : BitVec 9
  /-- `ST`, 8 bits (R29). -/
  st : Byte
  /-- `IDR`, 16 bits (R29). -/
  idr : Ident
  /-- `FIRST`, 16 bits (R29). -/
  first : Ident
  /-- `CNT`, 4 bits (R29). -/
  cnt : BitVec 4
  /-- `ALL_FF`, 1 bit (R29). -/
  allFF : Bool
  /-- The local `v` of 41_read.md R170. -/
  v : Byte
  /-- The local `hi` of 44_lifecycle.md R216. -/
  hi : Byte
  /-- The local `lo` of 44_lifecycle.md R216. -/
  lo : Byte
  /-- The control position (R30): the micro-operations still to run; `[]` is idle. -/
  control : List Micro
  /-- The operation latch (R31). -/
  latch : Option Instr
  /-- The requests the host has yet to issue, in order (30_encoding.md R123, 60_exceptions.md R268). -/
  requests : List Request
  /-- The response to the last request (60_exceptions.md R268): `none` until it has been returned. -/
  result : Option Result
  /-- The host's memory, in which the callers' buffers lie (30_encoding.md R121, decision D29). -/
  hostMem : Memory
  /-- The bus trace, in the order of emission (00_scope.md R12). -/
  trace : List Event
  /-- The environment. -/
  env : Env
  /-- How many free draws have been made: the model's own counter (assumption log 8). -/
  draws : Nat
  deriving DecidableEq, Repr

/-! ## Why a step stops -/

/-- The reasons for a fault: none. "The block raises no synchronous exception of any kind" (60_exceptions.md R250), and a busy-wait
that never ends is an infinite execution, not a fault (R256). -/
inductive Fault
  deriving DecidableEq, Repr

/-- The reasons for a refusal (60_exceptions.md R252). A refused request emits no event and changes no state: safe, since a refusal
gives no meaning and invents no result. -/
inductive Refusal where
  /-- Raised by an arm of `exec` whose instruction has no meaning yet. Safe. -/
  | notModelled (mnemonic : String)
  /-- Raised by every meaning for a request that `SESSION` does not allow (R253). Safe. -/
  | outsideLifecycle (session : Session)
  /-- Raised by every meaning for a request issued while an operation is running (10_state.md R31, R305). Safe. -/
  | requestWhileRunning
  /-- Raised by `step` for a request that decodes to no instruction (30_encoding.md R119, R122). Safe. -/
  | undecodable (e : DecodeError)
  deriving DecidableEq, Repr

/-- What a meaning answers. -/
abbrev Answer := Host.Outcome State Fault Refusal

/-! ## Reset -/

/-- The state right after an instance is constructed (10_state.md R36, 70_reset_and_hazards.md R290): the configuration registers
from the construction arguments, `SESSION` constructed, no event emitted, the control position idle, the latch empty, and every
register R36 calls unspecified at a free constant (assumption log 7). -/
def State.construct (p : Params) (cs : CsId) (cfg : BusCfg) (expected : Ident) (env : Env) : State where
  params := p
  csId := cs
  busCfg := cfg
  expectedId := expected
  session := .constructed
  busHeld := false
  csOut := false
  csLevel := if (Config.unspecified "CS_LEVEL" 1).getLsbD 0 then .high else .low
  uid := #v[Config.unspecified "UID[0]" 8, Config.unspecified "UID[1]" 8, Config.unspecified "UID[2]" 8,
    Config.unspecified "UID[3]" 8, Config.unspecified "UID[4]" 8, Config.unspecified "UID[5]" 8,
    Config.unspecified "UID[6]" 8, Config.unspecified "UID[7]" 8]
  uidValid := false
  a := Config.unspecified "A" 24
  rem := (Config.unspecified "REM" p.lenBits).toNat
  off := (Config.unspecified "OFF" p.lenBits).toNat
  cap := Config.unspecified "CAP" 9
  n := Config.unspecified "N" 9
  st := Config.unspecified "ST" 8
  idr := Config.unspecified "IDR" 16
  first := Config.unspecified "FIRST" 16
  cnt := Config.unspecified "CNT" 4
  allFF := (Config.unspecified "ALL_FF" 1).getLsbD 0
  v := Config.unspecified "v" 8
  hi := Config.unspecified "hi" 8
  lo := Config.unspecified "lo" 8
  control := []
  latch := none
  requests := []
  result := none
  hostMem := []
  trace := []
  env := env
  draws := 0

/-- The machine right after reset: an instance constructed with the values of Config, on a data line of which nothing is assumed
(assumption logs 5, 6, 8). -/
def State.reset : State :=
  State.construct Config.params Config.csId Config.busCfg Config.expectedId (.line [])

end Sys2Proof.Machine
end

