-- ==== Sys2Proof/Machine/Ops.lean ====
section
/-! DEFINITION. The named operations over memory and over the state: reading and writing one byte, erasing a range, emitting a
transport event, and the host's read of the `UID` register. The block takes no exception and returns from none
(60_exceptions.md R250, R257), so there is no such operation here. -/

namespace Sys2Proof.Machine

/-! ## Memory -/

/-- What an address that a memory does not list reads as: the erased value 0xFF (00_scope.md R18). The spec leaves the contents of the
chip at reset and of the callers' buffers open. DESIGN CHOICE (assumption log 12): unsafe for a statement about bytes that nothing
has written. -/
def Memory.blank : Byte := 0xFF

/-- The byte at an address. -/
def Memory.read : Memory → Nat → Byte
  | [], _ => Memory.blank
  | (x, w) :: rest, a => if a = x then w else if a < x then Memory.blank else Memory.read rest a

/-- Write one byte, keeping the canonical form: a blank byte is not listed. -/
def Memory.write : Memory → Nat → Byte → Memory
  | [], a, b => if b = Memory.blank then [] else [(a, b)]
  | (x, w) :: rest, a, b =>
    if a < x then
      if b = Memory.blank then (x, w) :: rest else (a, b) :: (x, w) :: rest
    else if a = x then
      if b = Memory.blank then rest else (a, b) :: rest
    else (x, w) :: Memory.write rest a b

/-- Make `size` bytes from `lo` on blank. -/
def Memory.eraseRange (m : Memory) (lo size : Nat) : Memory :=
  m.filter fun c => decide (c.1 < lo ∨ lo + size ≤ c.1)

/-- The memory that holds the given cells, a later cell over an earlier one. -/
def Memory.ofCells (cells : List Host.Cell) : Memory :=
  cells.foldl (fun m c => Memory.write m c.1 c.2) []

/-- The canonical form: addresses strictly rising, no blank byte listed. -/
abbrev Memory.wf (m : Memory) : Prop :=
  m.Pairwise (fun x y => x.1 < y.1) ∧ ∀ c ∈ m, c.2 ≠ Memory.blank

/-! ## The state -/

/-- `emit(ev)`: append a transport event to the bus trace (00_scope.md R13). -/
def State.emit (s : State) (e : Event) : State := { s with trace := s.trace ++ [e] }

/-- The block is idle: no operation is running (10_state.md R30). -/
abbrev State.idle (s : State) : Prop := s.control = []

/-- What the host reads from the `UID` register: its eight bytes whenever the block is idle, in any `SESSION` state, with no bus
activity and no state change (44_lifecycle.md R221); nothing while an operation runs. -/
def State.hostReadUid (s : State) : Option (Vector Byte 8) :=
  if s.control = [] then some s.uid else none

/-- The flash array of the chip in the environment; a bare line has none. -/
def State.flash (s : State) : Memory :=
  match s.env with
  | .line _ => []
  | .chip c => c.mem

end Sys2Proof.Machine
end

