-- ==== Sys2Proof/Machine/Chip.lean ====
section
/-! DEFINITION. The environment: what answers an `XFER`. A bare data line answers with its script and then with free draws
(00_scope.md R16, 20_memory.md R88). A flash chip answers by the environment rules 20_memory.md R77 to R88; where those give nothing,
by the reference chip of 95_test_vectors.md section 0 or by free values (93_implementation_defined.md U2, U5, U12), as its `gaps` says.
None of it is the block's: no rule of the block depends on it (R76). -/

namespace Sys2Proof.Machine

/-- A byte on which the rules for the chip say nothing: the reference chip's, or a free draw. -/
def Chip.gapByte (c : Chip) (draws : Nat) (byReference : Byte) : Byte × Nat :=
  match c.gaps with
  | .reference => (byReference, draws)
  | .free => (Config.lineByte draws, draws + 1)

/-- `FLASH_BYTES` is in its range, `1 <= FLASH_BYTES <= 2^24` (00_scope.md R10). -/
abbrev Chip.fits (c : Chip) : Prop := 1 ≤ c.flashBytes ∧ c.flashBytes ≤ 2 ^ 24

/-- The reference chip's `prot` has "bits 1 and 0 always zero" (95_test_vectors.md section 0). -/
abbrev Chip.protLegal (c : Chip) : Prop := c.gaps = .reference → c.prot &&& 0x03 = 0

/-- The chip after an event for which the source gives it no behaviour: array, latch, busy time and power state are free values;
its factory-programmed identifiers stay. -/
def Chip.scramble (c : Chip) (draws : Nat) : Chip × Nat :=
  ({ c with
      mem := Memory.ofCells (Config.chipCells draws)
      prot := Config.lineByte draws
      wel := (Config.lineByte (draws + 1)).getLsbD 0
      asleep := (Config.lineByte (draws + 2)).getLsbD 0
      waking := Config.wakeFrames draws
      busy := Config.busyPolls draws },
    draws + 3)

/-- The chip's own reaction to an event outside R77 to R88: none in the reference chip, anything in the other. -/
def Chip.gapEffect (c : Chip) (draws : Nat) : Chip × Nat :=
  match c.gaps with
  | .reference => (c, draws)
  | .free => c.scramble draws

/-- The address bytes of a frame: the three after the opcode (30_encoding.md R116). -/
def frameAddr (frame : List Byte) : Nat :=
  (joinAddr (frame.getD 1 0) (frame.getD 2 0) (frame.getD 3 0)).toNat

/-- A sleeping chip "responds to no command except wake-up and identifier-read" (20_memory.md R84), and a chip that is still waking to
none: how long it needs is not in the source (R85, 91_not_in_source.md N9; assumption log 21). -/
def Chip.ignores (o : Opcodes) (c : Chip) (opc : Byte) : Bool :=
  c.waking != 0 || (c.asleep && opc != o.wake && opc != o.idRead)

/-- A frame other than a status read while a program or erase is in progress: not in the source (R79). -/
def Chip.disturbed (o : Opcodes) (c : Chip) (opc : Byte) : Bool :=
  c.busy != 0 && opc != o.statusRead

/-! ## Answers -/

/-- One status byte (R79): bit 0 is 1 while a program or erase is in progress and 0 otherwise, whatever the other bits; bits 7 to 1 are
`prot` in the reference chip and any value otherwise (10_state.md R33, 93 U12). Each one answered while busy brings the end of the
operation one nearer; when it ends, the write-enable latch clears (R78). -/
def Chip.statusReply (c : Chip) (draws : Nat) : Byte × Chip × Nat :=
  let upper := c.gapByte draws c.prot
  if c.busy = 0 then (upper.1 &&& 0xFE, c, upper.2)
  else (upper.1 ||| 0x01, { c with busy := c.busy - 1, wel := if c.busy = 1 then false else c.wel }, upper.2)

/-- The byte at address `x` of a read stream (R80). Past the end of the array, which never reaches past 2^24 (00_scope.md R10): addresses
modulo 2^24 in the reference chip, a free draw otherwise (93 U2). -/
def Chip.arrayReply (c : Chip) (draws x : Nat) : Byte × Nat :=
  match c.gaps with
  | .reference => (Memory.read c.mem (x % 2 ^ 24), draws)
  | .free => if x < c.flashBytes ∧ x < 2 ^ 24 then (Memory.read c.mem x, draws) else (Config.lineByte draws, draws + 1)

/-- The byte the chip answers to the transfer that comes after `c.frame`, in a frame of command `w` that it does not ignore: the
response bytes where 30_encoding.md R100 has them, and nothing stated elsewhere. -/
def Chip.answer (c : Chip) (w : Option Wire) (draws : Nat) : Byte × Chip × Nat :=
  let pos := c.frame.length
  let silent := let g := c.gapByte draws 0x00; (g.1, c, g.2)
  match w with
  | some .statusRead => if pos = 0 then silent else c.statusReply draws
  | some .arrayReadLF =>
    if pos < 4 then silent
    else let g := c.arrayReply draws (frameAddr c.frame + (pos - 4)); (g.1, c, g.2)
  | some .arrayRead =>
    if pos < 5 then silent
    else let g := c.arrayReply draws (frameAddr c.frame + (pos - 5)); (g.1, c, g.2)
  | some .idRead =>
    if pos = 1 then (c.ident.extractLsb' 8 8, c, draws)
    else if pos = 2 then (c.ident.extractLsb' 0 8, c, draws)
    else silent
  | some .uidRead => if h : 5 ≤ pos ∧ pos < 13 then (c.uid[pos - 5]'(by omega), c, draws) else silent
  | _ => silent

/-- One transfer: the chip takes the byte sent and gives the byte received. A frame it ignores is answered with 0xFF by the reference
chip and with free draws otherwise (R84, 93 U5). -/
def Chip.reply (o : Opcodes) (c : Chip) (draws : Nat) (sent : Byte) : Byte × Chip × Nat :=
  let opc := (c.frame ++ [sent]).headD 0
  let r :=
    if c.ignores o opc || c.disturbed o opc then
      let g := c.gapByte draws 0xFF
      (g.1, c, g.2)
    else c.answer (o.find? opc) draws
  (r.1, { r.2.1 with frame := c.frame ++ [sent] }, r.2.2)

/-! ## Effects, at the end of a frame -/

/-- A program or erase has been started: it is in progress for a while (R79), and when it completes the latch clears (R78). -/
def Chip.start (c : Chip) (draws k : Nat) : Chip × Nat :=
  match c.gaps with
  | .reference => ({ c with busy := k, wel := if k = 0 then false else c.wel }, draws)
  | .free =>
    let k' := Config.busyPolls draws
    ({ c with busy := k', wel := if k' = 0 then false else c.wel }, draws + 1)

/-- Where the `k`-th payload byte of a program at `a` goes: on in the page, wrapping to its start (R83). -/
def programTarget (a k : Nat) : Nat := a / 256 * 256 + (a + k) % 256

/-- Program a payload: each byte can only clear bits (R77). -/
def programBytes (a k : Nat) : List Byte → Memory → Memory
  | [], m => m
  | d :: ds, m =>
    programBytes a (k + 1) ds
      (Memory.write m (programTarget a k) (Memory.read m (programTarget a k) &&& d))

/-- A program or erase that protection bits refuse (R88): no effect on the array. Whether it uses up the write-enable latch is not in the
source: the reference chip keeps the latch (95_test_vectors.md P5), in the other it is a free value afterwards (assumption log 11). -/
def Chip.refuse (c : Chip) (draws : Nat) : Chip × Nat :=
  match c.gaps with
  | .reference => (c, draws)
  | .free => ({ c with wel := (Config.lineByte draws).getLsbD 0 }, draws + 1)

/-- A program or erase takes effect only on an unprotected chip (R88: while protection bits are set the chip refuses it) whose latch is
set (R78); with the latch clear the source says nothing. -/
def Chip.armed (c : Chip) (draws : Nat) (effect : Chip × Nat) : Chip × Nat :=
  if c.prot ≠ 0 then c.refuse draws
  else if c.wel = false then c.gapEffect draws
  else effect

/-- Page program (R77, R83). A target outside the array is chip-level undefined behaviour (93 U2). -/
def Chip.program (c : Chip) (draws a : Nat) (payload : List Byte) : Chip × Nat :=
  c.armed draws <|
    if c.gaps = .free ∧ ¬ (∀ k < payload.length, programTarget a k < c.flashBytes) then c.scramble draws
    else { c with mem := programBytes a 0 payload c.mem }.start draws c.kProgram

/-- The array besides the unit of an erase at `a`. A unit that starts in the array and runs past its end is named by no rule: the free
chip's other bytes are free values then (assumption log 23). -/
def Chip.besideUnit (c : Chip) (draws a size : Nat) : Memory :=
  if c.gaps = .free ∧ c.flashBytes < a + size then Memory.ofCells (Config.chipCells draws) else c.mem

/-- Block erase (R82): every byte of the unit becomes 0xFF. For an address that is not a block's start the source says nothing (N10), and
one past the array is out of range (93 U2): the reference chip erases the enclosing block, the other does anything. -/
def Chip.eraseBlock (c : Chip) (draws a size : Nat) : Chip × Nat :=
  c.armed draws <|
    if c.gaps = .free ∧ ¬ (a % size = 0 ∧ a < c.flashBytes) then c.scramble draws
    else { c with mem := Memory.eraseRange (c.besideUnit draws a size) (a / size * size) size }.start draws c.kErase

/-- Chip erase (R82): the whole array becomes 0xFF. -/
def Chip.eraseAll (c : Chip) (draws : Nat) : Chip × Nat :=
  c.armed draws <| { c with mem := [] }.start draws c.kErase

/-- Status write (R88): writing 0x00 clears all protection bits. The reference chip needs the latch, keeps bits 7 to 2 and clears the
latch (G5); otherwise what other values do, and the latch afterwards, is free. -/
def Chip.writeStatus (c : Chip) (draws : Nat) (v : Byte) : Chip × Nat :=
  match c.gaps with
  | .reference => if c.wel then ({ c with prot := v &&& 0xFC, wel := false }, draws) else (c, draws)
  | .free =>
    if c.wel then
      ({ c with
          prot := if v = 0 then 0 else Config.lineByte draws
          wel := (Config.lineByte (draws + 1)).getLsbD 0 }, draws + 2)
    else c.scramble draws

/-- The power-down command (R84). What survives power-down is not in the source, beyond the array (60_exceptions.md R259): everything in
the reference chip (95 section 0); otherwise the protection bits and the latch are free values afterwards (assumption log 22). -/
def Chip.powerDown (c : Chip) (draws : Nat) : Chip × Nat :=
  match c.gaps with
  | .reference => ({ c with asleep := true }, draws)
  | .free =>
    ({ c with
        asleep := true
        prot := Config.lineByte draws
        wel := (Config.lineByte (draws + 1)).getLsbD 0 }, draws + 2)

/-- The wake command (R85). How long the chip needs after it is not in the source (91_not_in_source.md N9): no time in the reference
chip (95 section 0); otherwise it ignores some finite number of the frames that follow (assumption log 21). -/
def Chip.powerUp (c : Chip) (draws : Nat) : Chip × Nat :=
  match c.gaps with
  | .reference => ({ c with asleep := false }, draws)
  | .free => ({ c with asleep := false, waking := Config.wakeFrames draws }, draws + 1)

/-- What a complete frame does, in a chip that does not ignore it. A frame that is none of the block's is outside the rules. -/
def Chip.perform (c : Chip) (draws : Nat) (w : Option Wire) (frame : List Byte) : Chip × Nat :=
  match w with
  | some .writeEnable => if frame.length = 1 then ({ c with wel := true }, draws) else c.gapEffect draws
  | some .pageProgram =>
    if 4 < frame.length then c.program draws (frameAddr frame) (frame.drop 4) else c.gapEffect draws
  | some .blockErase4K => if frame.length = 4 then c.eraseBlock draws (frameAddr frame) 4096 else c.gapEffect draws
  | some .blockErase32K => if frame.length = 4 then c.eraseBlock draws (frameAddr frame) 32768 else c.gapEffect draws
  | some .blockErase64K => if frame.length = 4 then c.eraseBlock draws (frameAddr frame) 65536 else c.gapEffect draws
  | some .chipErase => if frame.length = 1 then c.eraseAll draws else c.gapEffect draws
  | some .statusWrite => if frame.length = 2 then c.writeStatus draws (frame.getD 1 0) else c.gapEffect draws
  | some .sleep => if frame.length = 1 then c.powerDown draws else c.gapEffect draws
  | some .wake => if frame.length = 1 then c.powerUp draws else c.gapEffect draws
  | some .arrayReadLF => (c, draws)
  | some .arrayRead => (c, draws)
  | some .statusRead => (c, draws)
  | some .idRead => (c, draws)
  | some .uidRead => (c, draws)
  | none => c.gapEffect draws

/-- `CS(high)`: the frame under way ends (30_encoding.md R118) and takes effect. Without a frame nothing happens. A frame that is ignored
brings the end of a wake one nearer. -/
def Chip.deselect (o : Opcodes) (c : Chip) (draws : Nat) : Chip × Nat :=
  match c.frame with
  | [] => (c, draws)
  | opc :: _ =>
    let c0 := { c with frame := [] }
    if c.ignores o opc then ({ c0 with waking := c.waking - 1 }, draws)
    else if c.disturbed o opc then c0.gapEffect draws
    else c0.perform draws (o.find? opc) c.frame

/-- `CS(low)`: a frame begins. -/
def Chip.select (c : Chip) : Chip := { c with frame := [] }

/-! ## The environment -/

/-- The environment's answer to a transfer, and what it becomes. -/
def Env.reply (o : Opcodes) (e : Env) (draws : Nat) (sent : Byte) : Byte × Env × Nat :=
  match e with
  | .line (b :: script) => (b, .line script, draws)
  | .line [] => (Config.lineByte draws, .line [], draws + 1)
  | .chip c => let r := c.reply o draws sent; (r.1, .chip r.2.1, r.2.2)

/-- The environment sees `CS(low)`. -/
def Env.select (e : Env) : Env :=
  match e with
  | .line script => .line script
  | .chip c => .chip c.select

/-- The environment sees `CS(high)`. -/
def Env.deselect (o : Opcodes) (e : Env) (draws : Nat) : Env × Nat :=
  match e with
  | .line script => (.line script, draws)
  | .chip c => let r := c.deselect o draws; (.chip r.1, r.2)

/-- The reference chip of 95_test_vectors.md section 0 in its stated initial state: erased, unprotected, idle, awake. -/
def Chip.reference : Chip where
  flashBytes := 2 ^ 24
  mem := []
  prot := 0
  wel := false
  busy := 0
  asleep := false
  waking := 0
  ident := 0xEF30
  uid := #v[0xD1, 0xD2, 0xD3, 0xD4, 0xD5, 0xD6, 0xD7, 0xD8]
  kProgram := 0
  kErase := 0
  gaps := .reference
  frame := []

end Sys2Proof.Machine
end

