-- ==== Sys2Proof/Machine/Flags.lean ====
section
/-! DEFINITION. The predicates the block computes (10_state.md R32; it has no condition-code register): the busy bit, the erased-byte
test, the identifier comparison and the tests of a sample. All arithmetic is unsigned equality (40_dispatcher.md R152, 42_write.md
R190). -/

namespace Sys2Proof.Machine

/-- `busy`: bit 0 of a status byte; bits 7 to 1 have no meaning to the block (10_state.md R33, 40_dispatcher.md R145). -/
def busyBit (status : Byte) : Bool := status.getLsbD 0

/-- A byte equals the erased value 0xFF (41_read.md R172). -/
def erasedByte (b : Byte) : Bool := b == 0xFF

/-- No identifier is expected: the check of bring-up is disabled (10_state.md R23). -/
def checkDisabled (expected : Ident) : Bool := expected == 0x0000

/-- A sample breaks a requirement of `found`: zero, all ones, or different from the first (44_lifecycle.md R218). -/
def badSample (sample first : Ident) : Bool := sample == 0x0000 || sample == 0xFFFF || sample != first

end Sys2Proof.Machine
end

