-- ==== Sys2Proof/Machine/Operands.lean ====
section
/-! DEFINITION. Every operand form: where a sent byte comes from (30_encoding.md R116, R117), what is done with a received byte
(R100), the value a return hands to the host (R120), the identifier's assembly, and the paged write planner (42_write.md R187 to
R190). -/

namespace Sys2Proof.Machine

/-- The byte an `xfer` sends (R116, R117). -/
def Out.eval (o : Out) (s : State) : Byte :=
  match o with
  | .byte b => b
  | .opcode w => s.params.opcodes.byte w
  | .fill => s.params.fill
  | .addrHigh => Sys2Proof.addrHigh s.a
  | .addrMid => Sys2Proof.addrMid s.a
  | .addrLow => Sys2Proof.addrLow s.a
  | .buf ref i => Memory.read s.hostMem (ref + (s.off + i))

/-- What is done with the byte an `xfer` receives. -/
def Keep.store (k : Keep) (r : Byte) (s : State) : State :=
  match k with
  | .drop => s
  | .st => { s with st := r }
  | .v => { s with v := r }
  | .hi => { s with hi := r }
  | .lo => { s with lo := r }
  | .uid i => { s with uid := s.uid.set i.val r i.isLt }
  | .buf ref i => { s with hostMem := Memory.write s.hostMem (ref + i) r }
  | .allFF => { s with allFF := s.allFF && erasedByte r }

/-- The 16-bit identifier from its two bytes, the first received high (20_memory.md R62): `hi ++ lo`. -/
def joinIdent (hi lo : Byte) : Ident := hi ++ lo

/-- The value handed to the host. -/
def Ret.eval (r : Ret) (s : State) : Result :=
  match r with
  | .done => .done
  | .const b => .bit b
  | .busy => .bit (busyBit s.st)
  | .status => .byte s.st
  | .datum => .byte s.v
  | .allFF => .bit s.allFF
  | .ident => .ident s.idr
  | .uid => .uid s.uid
  | .buffer len => .buffer len

/-! ## The paged write planner (42_write.md R187) -/

/-- `256 - (addr mod 256)`: the bytes available in the first page, 1 to 256 (R190). -/
def firstChunk (addr : Addr) : Nat := 256 - addr.toNat % 256

/-- `A + N` modulo 2^24 (R187, decision D5). -/
def advanceAddr (addr : Addr) (n : Nat) : Addr := addr + BitVec.ofNat 24 n

/-- One page-program command of the planner: `size` bytes of the caller's buffer from `off`, to the flash from `start`. -/
structure Chunk where
  start : Addr
  off : Nat
  size : Nat
  deriving DecidableEq, Repr

/-- The planner's loop from given register values; `fuel` bounds the number of turns and `rem` always suffices, since each turn
takes at least one byte when `cap` is at least 1. -/
def planLoop : (fuel : Nat) → (addr : Addr) → (off rem cap : Nat) → List Chunk
  | 0, _, _, _, _ => []
  | fuel + 1, addr, off, rem, cap =>
    if rem = 0 then []
    else
      let n := min rem cap
      ⟨addr, off, n⟩ :: planLoop fuel (advanceAddr addr n) (off + n) (rem - n) 256

/-- The chunks that `writeBytes(addr, buf, len)` issues, in order. -/
def plan (addr : Addr) (len : Nat) : List Chunk := planLoop len addr 0 len (firstChunk addr)

end Sys2Proof.Machine
end

