-- ==== Sys2Proof/Machine/Sequencer.lean ====
section
/-! DEFINITION. How an operation runs: what one micro-operation does, running a list of them, the primitives of 40_dispatcher.md
(`select`, `deselect`, `send_addr`, `status_poll`, `gate`, `dispatch`) as lists of micro-operations, and the acceptance of a request.

An operation runs until it returns or until a poll of its gate reads busy. In the second case it stays at its gate, and running it
again polls again: the busy-wait has no timeout (R145), and one that never ends is an infinite execution, not a fault (60_exceptions.md
R256). DESIGN CHOICE (assumption log 1): `tick` (Machine/Tick.lean) is the step of one transport event. -/

namespace Sys2Proof.Machine

/-! ## One micro-operation -/

/-- How the pseudocode goes on after a micro-operation. -/
inductive Flow where
  /-- With the next line. -/
  | go
  /-- Back to the head of the gate's loop. -/
  | again
  /-- The operation has returned. -/
  | halt
  deriving DecidableEq, Repr

/-- `xfer(b) -> r` (40_dispatcher.md R142): one full-duplex exchange, the received byte supplied by the environment. -/
def State.exchange (s : State) (sent : Byte) : Byte × State :=
  let r := s.env.reply s.params.opcodes s.draws sent
  (r.1, { s.emit (.xfer sent r.1) with env := r.2.1, draws := r.2.2 })

/-- `emit(CS(low)); CS_LEVEL <- low` (R140). -/
def State.driveLow (s : State) : State :=
  { s.emit (.cs .low) with csLevel := .low, env := s.env.select }

/-- `emit(CS(high)); CS_LEVEL <- high` (R141). -/
def State.driveHigh (s : State) : State :=
  let e := s.env.deselect s.params.opcodes s.draws
  { s.emit (.cs .high) with csLevel := .high, env := e.1, draws := e.2 }

/-- The operation returns: the response is given, the latch is emptied (60_exceptions.md R268). The working registers are unspecified
between operations (92_eei_decisions.md D24); here each keeps its last value until its next write. DESIGN CHOICE (assumption log 24):
unsafe for a statement about a working register of an idle block. -/
def State.finish (s : State) (r : Result) : State :=
  { s with result := some r, latch := none }

/-- What a sample is compared with: the first sample is its own reference and becomes `FIRST` (44_lifecycle.md R218). -/
def State.reference (s : State) : Ident := if s.cnt = 1 then s.idr else s.first

/-- What one micro-operation does. -/
def perform (m : Micro) (s : State) : State × Flow :=
  match m with
  | .pinOut => ({ s.emit (.pinmodeOut s.csId) with csOut := true }, .go)
  | .busStart => ({ s.emit .busStart with session := .active }, .go)
  | .busStop => ({ s.emit .busStop with session := .ended }, .go)
  | .begin => ({ s.emit (.begin s.busCfg) with busHeld := true }, .go)
  | .finish => ({ s.emit .finish with busHeld := false }, .go)
  | .csLow => (s.driveLow, .go)
  | .csHigh => (s.driveHigh, .go)
  | .xfer out keep =>
    let r := s.exchange (out.eval s)
    (keep.store r.1 r.2, .go)
  | .gateTest => (s, if busyBit s.st then .again else .go)
  | .setA addr => ({ s with a := addr }, .go)
  | .setAllFF => ({ s with allFF := true }, .go)
  | .planStart len => ({ s with rem := len, off := 0, cap := BitVec.ofNat 9 (firstChunk s.a) }, .go)
  | .takeChunk => ({ s with n := BitVec.ofNat 9 (min s.rem s.cap.toNat) }, .go)
  | .advance =>
    ({ s with
        a := advanceAddr s.a s.n.toNat
        off := s.off + s.n.toNat
        rem := s.rem - s.n.toNat
        cap := 256 }, .go)
  | .setIdr => ({ s with idr := joinIdent s.hi s.lo }, .go)
  | .checkId => if s.idr = s.expectedId then (s, .go) else (s.finish (.bit false), .halt)
  | .setUidValid => ({ s with uidValid := true }, .go)
  | .setCnt k => ({ s with cnt := k }, .go)
  | .judge =>
    if badSample s.idr s.reference then ({ s with first := s.reference }.finish (.bit false), .halt)
    else ({ s with first := s.reference }, .go)
  | .ret r => (s.finish (r.eval s), .halt)

/-! ## The primitives, as lists of micro-operations -/

/-- `select()` (R140): acquire the bus, then select the chip. -/
def select : List Micro := [.begin, .csLow]

/-- `deselect()` (R141): deselect the chip, then release the bus. -/
def deselect : List Micro := [.csHigh, .finish]

/-- `send_addr(A)` (R143): the three bytes of the address register, most significant first. -/
def sendAddr : List Micro := [.xfer .addrHigh .drop, .xfer .addrMid .drop, .xfer .addrLow .drop]

/-- `status_poll()` (R144): one command cycle of its own, the status byte kept in `ST`. -/
def statusPoll : List Micro :=
  select ++ [.xfer (.opcode .statusRead) .drop, .xfer .fill .st] ++ deselect

/-- One turn of `gate()` (R145): a status poll and the exit test. A turn that reads busy goes back to the head. -/
def gate : List Micro := statusPoll ++ [.gateTest]

/-- `dispatch(opc, false)` (R146). The gate is skipped if and only if the opcode's value is that of `OPC_WAKE` (decision D20). -/
def dispatchPlain (p : Params) (w : Wire) : List Micro :=
  (if p.opcodes.byte w = p.opcodes.wake then [] else gate) ++ select ++ [.xfer (.opcode w) .drop]

/-- `dispatch(opc, true)` (R146): the write-enable command, gated itself and followed by the release of the bus, then the command. -/
def dispatchWrite (p : Params) (w : Wire) : List Micro :=
  dispatchPlain p .writeEnable ++ deselect ++ dispatchPlain p w

/-! ## Running -/

/-- An instance that a bring-up has brought to `active`: the line an output, the bus session started, the line high (44_lifecycle.md
R215, its first three events). `State.withFetchWord` uses it to place an instruction in a state whose `SESSION` allows it. -/
def State.broughtUp (s : State) : State :=
  { s with
    session := .active
    busHeld := false
    csOut := true
    csLevel := .high
    trace := [.pinmodeOut s.csId, .busStart, .cs .high] }

/-- Run micro-operations until the operation returns or a gate has to poll again; the control position is what is left to run. -/
def drain : List Micro → State → State
  | [], s => { s with control := [], latch := none }
  | m :: ms, s =>
    match perform m s with
    | (s', .go) => drain ms s'
    | (s', .again) => { s' with control := gate ++ ms }
    | (s', .halt) => { s' with control := [] }

/-- Whether `SESSION` allows an instruction (60_exceptions.md R253): bring-up in `constructed`, everything else in `active`. A wire
command is part of an operation's run, and `BEGIN` and `END` occur only while `SESSION = active` (R263). -/
def permitted (i : Instr) (session : Session) : Bool :=
  match session with
  | .constructed => i == .initDevice
  | .active => i != .initDevice
  | .ended => false

/-- Accept a request (10_state.md R31): the lifecycle check first (60_exceptions.md R255), then latch the operation and leave idle. -/
def accept (i : Instr) (program : List Micro) (s : State) : Answer :=
  if permitted i s.session then
    if s.control = [] then .next { s with latch := some i, result := none, control := program }
    else .refused .requestWhileRunning
  else .refused (.outsideLifecycle s.session)

/-- Accept a request and run it. -/
def run (i : Instr) (program : List Micro) (s : State) : Answer :=
  match accept i program s with
  | .next t => .next (drain program t)
  | .fault f => .fault f
  | .refused r => .refused r

end Sys2Proof.Machine
end

