-- ==== Sys2Proof/Machine/Erase.lean ====
section
/-! DEFINITION. The erase family: four granularities, as host operations and as wire commands (43_erase.md R200 to R204;
30_encoding.md R105 to R108). -/

namespace Sys2Proof.Machine

/-- The command cycle of a block erase at the address in `A`, with its write-enable prefix (R105 to R107): the address is sent as
given. -/
def blockEraseCycle (p : Params) (w : Wire) : List Micro := dispatchWrite p w ++ sendAddr ++ deselect

/-- A block erase from its address operand. -/
def progBlockErase (p : Params) (w : Wire) (addr : Addr) : List Micro :=
  .setA addr :: blockEraseCycle p w ++ [.ret .done]

/-- A chip erase (R108): no address. -/
def progChipErase (p : Params) : List Micro := dispatchWrite p .chipErase ++ deselect ++ [.ret .done]

/-- The host operation `eraseBlock4K` (43_erase.md R200). -/
def execEraseBlock4K (addr : Addr) (s : State) : Answer :=
  run (.eraseBlock4K addr) (progBlockErase s.params .blockErase4K addr) s

/-- The host operation `eraseBlock32K` (43_erase.md R201). -/
def execEraseBlock32K (addr : Addr) (s : State) : Answer :=
  run (.eraseBlock32K addr) (progBlockErase s.params .blockErase32K addr) s

/-- The host operation `eraseBlock64K` (43_erase.md R202). -/
def execEraseBlock64K (addr : Addr) (s : State) : Answer :=
  run (.eraseBlock64K addr) (progBlockErase s.params .blockErase64K addr) s

/-- The host operation `eraseChip` (43_erase.md R203). -/
def execEraseChip (s : State) : Answer := run .eraseChip (progChipErase s.params) s

/-- The wire command `BLOCK_ERASE_4K` (30_encoding.md R105). -/
def execBlockErase4KCmd (addr : Addr) (s : State) : Answer :=
  run (.blockErase4KCmd addr) (progBlockErase s.params .blockErase4K addr) s

/-- The wire command `BLOCK_ERASE_32K` (30_encoding.md R106). -/
def execBlockErase32KCmd (addr : Addr) (s : State) : Answer :=
  run (.blockErase32KCmd addr) (progBlockErase s.params .blockErase32K addr) s

/-- The wire command `BLOCK_ERASE_64K` (30_encoding.md R107). -/
def execBlockErase64KCmd (addr : Addr) (s : State) : Answer :=
  run (.blockErase64KCmd addr) (progBlockErase s.params .blockErase64K addr) s

/-- The wire command `CHIP_ERASE` (30_encoding.md R108). -/
def execChipEraseCmd (s : State) : Answer := run .chipEraseCmd (progChipErase s.params) s

end Sys2Proof.Machine
end

