-- ==== Sys2Proof/Machine/Status.lean ====
section
/-! DEFINITION. The status family: the host operations `isBusy` and `readStatusRegister` and the wire commands `STATUS_READ`,
`STATUS_WRITE` and `WRITE_ENABLE` (40_dispatcher.md R144, R148, R149; 30_encoding.md R109 to R111). -/

namespace Sys2Proof.Machine

/-- The command cycle of a status write (R110): dispatched as write-type (decision D10), one value byte. -/
def statusWriteCycle (p : Params) (v : Byte) : List Micro :=
  dispatchWrite p .statusWrite ++ [.xfer (.byte v) .drop] ++ deselect

/-- `isBusy()` (R148). -/
def progIsBusy : List Micro := statusPoll ++ [.ret .busy]

/-- `readStatusRegister()` (R149). -/
def progReadStatusRegister : List Micro := statusPoll ++ [.ret .status]

/-- `STATUS_READ` by itself (R109): one status poll, no gate. -/
def progStatusRead : List Micro := statusPoll ++ [.ret .status]

/-- `STATUS_WRITE` by itself (R110). -/
def progStatusWrite (p : Params) (v : Byte) : List Micro := statusWriteCycle p v ++ [.ret .done]

/-- `WRITE_ENABLE` by itself (R111): dispatched, gated, immediately followed by the release of the bus. -/
def progWriteEnable (p : Params) : List Micro := dispatchPlain p .writeEnable ++ deselect ++ [.ret .done]

/-- The host operation `isBusy` (40_dispatcher.md R148). -/
def execIsBusy (s : State) : Answer := run .isBusy progIsBusy s

/-- The host operation `readStatusRegister` (40_dispatcher.md R149). -/
def execReadStatusRegister (s : State) : Answer := run .readStatusRegister progReadStatusRegister s

/-- The wire command `STATUS_READ` (30_encoding.md R109). -/
def execStatusRead (s : State) : Answer := run .statusRead progStatusRead s

/-- The wire command `STATUS_WRITE` (30_encoding.md R110). -/
def execStatusWrite (v : Byte) (s : State) : Answer := run (.statusWrite v) (progStatusWrite s.params v) s

/-- The wire command `WRITE_ENABLE` (30_encoding.md R111). -/
def execWriteEnable (s : State) : Answer := run .writeEnable (progWriteEnable s.params) s

end Sys2Proof.Machine
end

