-- ==== Sys2Proof/Machine/Lifecycle.lean ====
section
/-! DEFINITION. The lifecycle family: bring-up, identification, power and the end of the session, as host operations, and the wire
commands `ID_READ`, `UID_READ`, `SLEEP`, `WAKE` (44_lifecycle.md R215 to R222; 30_encoding.md R112 to R115). -/

namespace Sys2Proof.Machine

/-- The command cycle of a `WAKE` (R115, R220): no gate precedes it. -/
def wakeCycle (p : Params) : List Micro := dispatchPlain p .wake ++ deselect

/-- The command cycle of a `SLEEP` (R114, R219): gated. -/
def sleepCycle (p : Params) : List Micro := dispatchPlain p .sleep ++ deselect

/-- The command cycle of an `ID_READ` and the assembly of the identifier (R112, R216). -/
def idReadCycle (p : Params) : List Micro :=
  dispatchPlain p .idRead ++ [.xfer .fill .hi, .xfer .fill .lo] ++ deselect ++ [.setIdr]

/-- The command cycle of a `UID_READ` (R113, R217): four filler bytes, then the eight bytes of `UID` in arrival order. -/
def uidReadCycle (p : Params) : List Micro :=
  dispatchPlain p .uidRead ++ List.replicate 4 (.xfer .fill .drop)
    ++ (List.finRange 8).map (fun i => .xfer .fill (.uid i)) ++ deselect ++ [.setUidValid]

/-- Bring-up (R215): the line an output, the bus session, the line high, wake; the identifier check unless it is disabled; the
status write of 0x00. -/
def progInit (p : Params) (expected : Ident) : List Micro :=
  [.pinOut, .busStart, .csHigh] ++ wakeCycle p
    ++ (if checkDisabled expected then [] else idReadCycle p ++ [.checkId])
    ++ statusWriteCycle p 0x00 ++ [.ret (.const true)]

/-- `readDeviceId()` (R216). -/
def progReadDeviceId (p : Params) : List Micro := idReadCycle p ++ [.ret .ident]

/-- `readUniqueId()` (R217). -/
def progReadUniqueId (p : Params) : List Micro := uidReadCycle p ++ [.ret .uid]

/-- One turn of the loop of `found` (R218): the sample's number, the sample, its tests. -/
def sampleTurn (p : Params) (k : BitVec 4) : List Micro := .setCnt k :: idReadCycle p ++ [.judge]

/-- `found()` (R218): wake, then up to ten samples. -/
def progFound (p : Params) : List Micro :=
  wakeCycle p ++ (List.range 10).flatMap (fun i => sampleTurn p (BitVec.ofNat 4 (i + 1))) ++ [.ret (.const true)]

/-- `sleep()` (R219). -/
def progSleep (p : Params) : List Micro := sleepCycle p ++ [.ret .done]

/-- `wakeup()` (R220). -/
def progWakeup (p : Params) : List Micro := wakeCycle p ++ [.ret .done]

/-- `end()` (R222): no command cycle. -/
def progEnd : List Micro := [.busStop, .ret .done]

/-- The operation that brings the block up (44_lifecycle.md R215). -/
def execInitDevice (s : State) : Answer := run .initDevice (progInit s.params s.expectedId) s

/-- The host operation `readDeviceId` (44_lifecycle.md R216). -/
def execReadDeviceId (s : State) : Answer := run .readDeviceId (progReadDeviceId s.params) s

/-- The host operation `readUniqueId` (44_lifecycle.md R217). -/
def execReadUniqueId (s : State) : Answer := run .readUniqueId (progReadUniqueId s.params) s

/-- The host operation `found` (44_lifecycle.md R218). -/
def execFound (s : State) : Answer := run .found (progFound s.params) s

/-- The host operation `sleep` (44_lifecycle.md R219). -/
def execSleep (s : State) : Answer := run .sleep (progSleep s.params) s

/-- The host operation `wakeup` (44_lifecycle.md R220). -/
def execWakeup (s : State) : Answer := run .wakeup (progWakeup s.params) s

/-- The host operation `end` (44_lifecycle.md R222). -/
def execEndSession (s : State) : Answer := run .endSession progEnd s

/-- The wire command `ID_READ` (30_encoding.md R112). -/
def execIdRead (s : State) : Answer := run .idRead (progReadDeviceId s.params) s

/-- The wire command `UID_READ` (30_encoding.md R113). -/
def execUidRead (s : State) : Answer := run .uidRead (progReadUniqueId s.params) s

/-- The wire command `SLEEP` (30_encoding.md R114). -/
def execSleepCmd (s : State) : Answer := run .sleepCmd (progSleep s.params) s

/-- The wire command `WAKE` (30_encoding.md R115). -/
def execWakeCmd (s : State) : Answer := run .wakeCmd (progWakeup s.params) s

end Sys2Proof.Machine
end

