-- ==== Sys2Proof/Machine/Read.lean ====
section
/-! DEFINITION. The read family: the host operations `readByte`, `readBytes`, `regionIsEmpty` and the wire commands `ARRAY_READ_LF`,
`ARRAY_READ` (41_read.md R170 to R173; 30_encoding.md R102, R103). -/

namespace Sys2Proof.Machine

/-- The command cycle of an `ARRAY_READ_LF` at the address in `A` (R102): no filler between address and datum. -/
def readLFCycle (p : Params) : List Micro :=
  dispatchPlain p .arrayReadLF ++ sendAddr ++ [.xfer .fill .v] ++ deselect

/-- The command cycle of an `ARRAY_READ` at the address in `A` (R103): the "don't care" byte, then the response transfers, each
keeping its byte as `keep` says. -/
def readCycle (p : Params) (keeps : List Keep) : List Micro :=
  dispatchPlain p .arrayRead ++ sendAddr ++ [.xfer .fill .drop] ++ keeps.map (.xfer .fill ·) ++ deselect

/-- `buf[i] <- xfer(FILL)` for `i` in `0 .. len-1` (R171). -/
def keepInBuf (span : Span) : List Keep := (List.range span.len).map (.buf span.buf)

/-- `readByte(addr)` (R170). -/
def progReadByte (p : Params) (addr : Addr) : List Micro := .setA addr :: readLFCycle p ++ [.ret .datum]

/-- `readBytes(addr, buf, len)` (R171). -/
def progReadBytes (p : Params) (addr : Addr) (span : Span) : List Micro :=
  .setA addr :: readCycle p (keepInBuf span) ++ [.ret (.buffer span.len)]

/-- `regionIsEmpty(addr, len)` (R172): all `len` bytes are read before the result is formed (decision D7). -/
def progRegionIsEmpty (p : Params) (addr : Addr) (len : Nat) : List Micro :=
  .setA addr :: .setAllFF :: readCycle p (List.replicate len .allFF) ++ [.ret .allFF]

/-- `ARRAY_READ_LF` by itself (R102). -/
def progArrayReadLF (p : Params) (addr : Addr) : List Micro := .setA addr :: readLFCycle p ++ [.ret .datum]

/-- The buffer of an `ARRAY_READ` asked for by itself. A frame names no buffer (R103), so it is the one at the start of the host's
memory. DESIGN CHOICE (assumption log 3): safe for statements about host operations. -/
def commandBuf : BufRef := 0

/-- `ARRAY_READ` by itself (R103): its response bytes go to a buffer, as in `readBytes`. -/
def progArrayRead (p : Params) (addr : Addr) (n : Nat) : List Micro :=
  .setA addr :: readCycle p (keepInBuf ⟨commandBuf, n⟩) ++ [.ret (.buffer n)]

/-- The host operation `readByte` (41_read.md R170). -/
def execReadByte (addr : Addr) (s : State) : Answer := run (.readByte addr) (progReadByte s.params addr) s

/-- The host operation `readBytes` (41_read.md R171). -/
def execReadBytes (addr : Addr) (span : Span) (s : State) : Answer :=
  run (.readBytes addr span) (progReadBytes s.params addr span) s

/-- The host operation `regionIsEmpty` (41_read.md R172). -/
def execRegionIsEmpty (addr : Addr) (len : Byte) (s : State) : Answer :=
  run (.regionIsEmpty addr len) (progRegionIsEmpty s.params addr len.toNat) s

/-- The wire command `ARRAY_READ_LF` (30_encoding.md R102). -/
def execArrayReadLF (addr : Addr) (s : State) : Answer := run (.arrayReadLF addr) (progArrayReadLF s.params addr) s

/-- The wire command `ARRAY_READ` (30_encoding.md R103). -/
def execArrayRead (addr : Addr) (n : Nat) (s : State) : Answer :=
  run (.arrayRead addr n) (progArrayRead s.params addr n) s

end Sys2Proof.Machine
end

