-- ==== Sys2Proof/Machine/Write.lean ====
section
/-! DEFINITION. The write family: the host operations `writeByte` and `writeBytes` and the wire command `PAGE_PROGRAM`
(42_write.md R185 to R191; 30_encoding.md R104). -/

namespace Sys2Proof.Machine

/-- The command cycle of a `PAGE_PROGRAM` at the address in `A`, with its write-enable prefix (R104). -/
def programCycle (p : Params) (payload : List Out) : List Micro :=
  dispatchWrite p .pageProgram ++ sendAddr ++ payload.map (.xfer · .drop) ++ deselect

/-- `buf[OFF + i]` for `i` in `0 .. n-1` (R186). -/
def bufPayload (buf : BufRef) (n : Nat) : List Out := (List.range n).map (.buf buf)

/-- One turn of the planner's loop (R187): the size of the chunk, its `program_chunk` (R186), the advance of the registers. -/
def chunkTurn (p : Params) (buf : BufRef) (size : Nat) : List Micro :=
  .takeChunk :: programCycle p (bufPayload buf size) ++ [.advance]

/-- `writeByte(addr, value)` (R185). -/
def progWriteByte (p : Params) (addr : Addr) (value : Byte) : List Micro :=
  .setA addr :: programCycle p [.byte value] ++ [.ret .done]

/-- `writeBytes(addr, buf, len)` (R187): the loop `while REM > 0`, with the chunk sizes that `plan` computes. -/
def progWriteBytes (p : Params) (addr : Addr) (span : Span) : List Micro :=
  .setA addr :: .planStart span.len :: (plan addr span.len).flatMap (fun c => chunkTurn p span.buf c.size) ++ [.ret .done]

/-- `PAGE_PROGRAM` by itself, with the payload given (R104). -/
def progPageProgram (p : Params) (addr : Addr) (payload : List Byte) : List Micro :=
  .setA addr :: programCycle p (payload.map .byte) ++ [.ret .done]

/-- The host operation `writeByte` (42_write.md R185). -/
def execWriteByte (addr : Addr) (value : Byte) (s : State) : Answer :=
  run (.writeByte addr value) (progWriteByte s.params addr value) s

/-- The host operation `writeBytes` (42_write.md R187). -/
def execWriteBytes (addr : Addr) (span : Span) (s : State) : Answer :=
  run (.writeBytes addr span) (progWriteBytes s.params addr span) s

/-- The wire command `PAGE_PROGRAM` (30_encoding.md R104). -/
def execPageProgram (addr : Addr) (payload : List Byte) (s : State) : Answer :=
  run (.pageProgram addr payload) (progPageProgram s.params addr payload) s

end Sys2Proof.Machine
end

