-- ==== Sys2Proof/Machine/Dispatch.lean ====
section
/-! DEFINITION. The dispatch of an instruction to its meaning: one arm per constructor of Instr. -/

namespace Sys2Proof.Machine

def exec (i : Instr) (s : State) : Host.Outcome State Fault Refusal :=
  match i with
  | .arrayReadLF addr => Sys2Proof.Machine.execArrayReadLF addr s
  | .arrayRead addr n => Sys2Proof.Machine.execArrayRead addr n s
  | .pageProgram addr payload => Sys2Proof.Machine.execPageProgram addr payload s
  | .blockErase4KCmd addr => Sys2Proof.Machine.execBlockErase4KCmd addr s
  | .blockErase32KCmd addr => Sys2Proof.Machine.execBlockErase32KCmd addr s
  | .blockErase64KCmd addr => Sys2Proof.Machine.execBlockErase64KCmd addr s
  | .chipEraseCmd => Sys2Proof.Machine.execChipEraseCmd s
  | .statusRead => Sys2Proof.Machine.execStatusRead s
  | .statusWrite v => Sys2Proof.Machine.execStatusWrite v s
  | .writeEnable => Sys2Proof.Machine.execWriteEnable s
  | .idRead => Sys2Proof.Machine.execIdRead s
  | .uidRead => Sys2Proof.Machine.execUidRead s
  | .sleepCmd => Sys2Proof.Machine.execSleepCmd s
  | .wakeCmd => Sys2Proof.Machine.execWakeCmd s
  | .isBusy => Sys2Proof.Machine.execIsBusy s
  | .readStatusRegister => Sys2Proof.Machine.execReadStatusRegister s
  | .readByte addr => Sys2Proof.Machine.execReadByte addr s
  | .readBytes addr span => Sys2Proof.Machine.execReadBytes addr span s
  | .regionIsEmpty addr len => Sys2Proof.Machine.execRegionIsEmpty addr len s
  | .writeByte addr value => Sys2Proof.Machine.execWriteByte addr value s
  | .writeBytes addr span => Sys2Proof.Machine.execWriteBytes addr span s
  | .eraseBlock4K addr => Sys2Proof.Machine.execEraseBlock4K addr s
  | .eraseBlock32K addr => Sys2Proof.Machine.execEraseBlock32K addr s
  | .eraseBlock64K addr => Sys2Proof.Machine.execEraseBlock64K addr s
  | .eraseChip => Sys2Proof.Machine.execEraseChip s
  | .initDevice => Sys2Proof.Machine.execInitDevice s
  | .readDeviceId => Sys2Proof.Machine.execReadDeviceId s
  | .readUniqueId => Sys2Proof.Machine.execReadUniqueId s
  | .found => Sys2Proof.Machine.execFound s
  | .sleep => Sys2Proof.Machine.execSleep s
  | .wakeup => Sys2Proof.Machine.execWakeup s
  | .endSession => Sys2Proof.Machine.execEndSession s

end Sys2Proof.Machine
end

