-- ==== Sys2Proof/Machine/Step.lean ====
section
/-! DEFINITION. One step of the machine. While an operation waits at its gate, a step polls again and runs on; when the block is idle, a
step takes the host's next request, decodes it and executes it; with no request the block waits (10_state.md R30, R31, 60_exceptions.md
R268). How a program comes to run from reset: assumption log 2. -/

namespace Sys2Proof.Machine

/-- One step. -/
def step (s : State) : Host.Outcome State Fault Refusal :=
  match s.control with
  | m :: ms => .next (drain (m :: ms) s)
  | [] =>
    match s.requests with
    | [] => .next s
    | r :: rest =>
      match decode s.params r with
      | .ok i => exec i { s with requests := rest }
      | .error e => .refused (.undecodable e)

/-- The state with the instruction of a table word as the host's next request, and the block idle, so that the next step takes it. In
an instance that no bring-up has made active, a bring-up stands done for every instruction but the one that does it (assumption
log 2): R253 would refuse it otherwise. -/
def State.withFetchWord (s : State) (nbits w : Nat) : State :=
  let r := tableRequest s.params nbits w
  let placed : State := { s with requests := r :: s.requests, control := [], latch := none }
  match s.session, decode s.params r with
  | .constructed, .ok .initDevice => placed
  | .constructed, .ok _ => placed.broughtUp
  | _, _ => placed

end Sys2Proof.Machine
end

