-- ==== Sys2Proof/Machine/Tick.lean ====
section
/-! DEFINITION. The machine at the grain of one transport event: "one model step is one transport event (or one refusal, or one return)"
(92_eei_decisions.md D19, 00_scope.md R16). `tick` accepts a request, or performs one micro-operation of the operation that runs; each
emits at most one event. It shares `perform` and the programs with `exec`, so that a `step` is a run of ticks (assumption log 1). -/

namespace Sys2Proof.Machine

/-- The program of an instruction: its pseudocode as micro-operations. -/
def programOf (p : Params) (expected : Ident) : Instr → List Micro
  | .arrayReadLF addr => progArrayReadLF p addr
  | .arrayRead addr n => progArrayRead p addr n
  | .pageProgram addr payload => progPageProgram p addr payload
  | .blockErase4KCmd addr => progBlockErase p .blockErase4K addr
  | .blockErase32KCmd addr => progBlockErase p .blockErase32K addr
  | .blockErase64KCmd addr => progBlockErase p .blockErase64K addr
  | .chipEraseCmd => progChipErase p
  | .statusRead => progStatusRead
  | .statusWrite v => progStatusWrite p v
  | .writeEnable => progWriteEnable p
  | .idRead => progReadDeviceId p
  | .uidRead => progReadUniqueId p
  | .sleepCmd => progSleep p
  | .wakeCmd => progWakeup p
  | .isBusy => progIsBusy
  | .readStatusRegister => progReadStatusRegister
  | .readByte addr => progReadByte p addr
  | .readBytes addr span => progReadBytes p addr span
  | .regionIsEmpty addr len => progRegionIsEmpty p addr len.toNat
  | .writeByte addr value => progWriteByte p addr value
  | .writeBytes addr span => progWriteBytes p addr span
  | .eraseBlock4K addr => progBlockErase p .blockErase4K addr
  | .eraseBlock32K addr => progBlockErase p .blockErase32K addr
  | .eraseBlock64K addr => progBlockErase p .blockErase64K addr
  | .eraseChip => progChipErase p
  | .initDevice => progInit p expected
  | .readDeviceId => progReadDeviceId p
  | .readUniqueId => progReadUniqueId p
  | .found => progFound p
  | .sleep => progSleep p
  | .wakeup => progWakeup p
  | .endSession => progEnd

/-- One micro-operation of the operation that runs, and the control position after it. -/
def advanceMicro (m : Micro) (rest : List Micro) (s : State) : State :=
  match perform m s with
  | (s', .go) => { s' with control := rest, latch := if rest = [] then none else s'.latch }
  | (s', .again) => { s' with control := gate ++ rest }
  | (s', .halt) => { s' with control := [] }

/-- One event, one acceptance, one refusal or one return. -/
def tick (s : State) : Answer :=
  match s.control with
  | m :: ms => .next (advanceMicro m ms s)
  | [] =>
    match s.requests with
    | [] => .next s
    | r :: rest =>
      match decode s.params r with
      | .ok i => accept i (programOf s.params s.expectedId i) { s with requests := rest }
      | .error e => .refused (.undecodable e)

/-- `k` ticks, stopping at the first refusal. -/
def ticks : Nat → State → Answer
  | 0, s => .next s
  | k + 1, s =>
    match tick s with
    | .next t => ticks k t
    | .fault f => .fault f
    | .refused r => .refused r

end Sys2Proof.Machine
end

