-- ==== Sys2Proof/Safety.lean ====
section
/-! DEFINITION. What counts as a safe run, in the terms the claims use: the events of a command cycle (00_scope.md R14) and of what
operations are made of, what an operation may write, the frames a run sends, the grammar of a whole life's bus trace (60_exceptions.md
R267), the phase of the bus it ends in, and the machine's invariants (10_state.md R37). -/

namespace Sys2Proof.Machine

/-! ## Command cycles (00_scope.md R14) -/

/-- `<t1 t2 .. tn>`: one command cycle with the given transfers, each the byte sent and the byte received. -/
def cycle (cfg : BusCfg) (transfers : List (Byte × Byte)) : List Event :=
  [.begin cfg, .cs .low] ++ transfers.map (fun t => .xfer t.1 t.2) ++ [.cs .high, .finish]

/-- One status poll that received `st` (40_dispatcher.md R144), and `x` during the opcode. -/
def pollCycle (s : State) (x st : Byte) : List Event :=
  cycle s.busCfg [(s.params.opcodes.statusRead, x), (s.params.fill, st)]

/-- The command cycle of a wire command: the bytes of its frame, each with the byte received. -/
def frameCycle (s : State) (i : Instr) (received : List Byte) : List Event :=
  cycle s.busCfg ((encodeFrame s.params i).zip received)

/-- A completed gate that needed one poll, and the command cycle it lets through (40_dispatcher.md R147 a): `x` and `st` are what the
poll received, `received` what the command did. -/
def gated (s : State) (x st : Byte) (i : Instr) (received : List Byte) : List Event :=
  pollCycle s x st ++ frameCycle s i received

/-- What is received on the way to a write-type command whose two gates pass at the first poll (R147 c): the two bytes of the poll
before the write-enable, the byte received with the write-enable, the two bytes of the poll before the command. -/
structure Arming where
  x1 : Byte
  st1 : Byte
  w : Byte
  x2 : Byte
  st2 : Byte
  deriving DecidableEq, Repr

/-- In the order received. -/
def Arming.bytes (g : Arming) : List Byte := [g.x1, g.st1, g.w, g.x2, g.st2]

/-- Both polls read "not busy". -/
def Arming.ready (g : Arming) : Bool := !busyBit g.st1 && !busyBit g.st2

/-- A write-type command (R147 c): a gate, the write-enable, a gate, the command. -/
def armed (s : State) (g : Arming) (i : Instr) (received : List Byte) : List Event :=
  gated s g.x1 g.st1 .writeEnable [g.w] ++ gated s g.x2 g.st2 i received

/-- What one sample of `found` receives (44_lifecycle.md R216, R218): the two bytes of its poll, the byte received with the opcode,
the identifier's two bytes. -/
structure Sample where
  x : Byte
  st : Byte
  o : Byte
  hi : Byte
  lo : Byte
  deriving DecidableEq, Repr

/-- In the order received. -/
def Sample.bytes (m : Sample) : List Byte := [m.x, m.st, m.o, m.hi, m.lo]

/-- The identifier of a sample, first byte high (20_memory.md R62). -/
def Sample.ident (m : Sample) : Ident := m.hi ++ m.lo

/-- The events of a sample. -/
def Sample.events (s : State) (m : Sample) : List Event := gated s m.x m.st .idRead [m.o, m.hi, m.lo]

/-- The bytes of the buffer `buf` that a chunk sends (42_write.md R186). -/
def Chunk.payload (m : Memory) (buf : BufRef) (c : Chunk) : List Byte :=
  (List.range c.size).map (fun i => Memory.read m (buf + (c.off + i)))

/-- What one chunk of `writeBytes` receives: on the way to its command, and during the command. -/
structure ChunkReply where
  arming : Arming
  received : List Byte
  deriving DecidableEq, Repr

/-- In the order received. -/
def ChunkReply.bytes (r : ChunkReply) : List Byte := r.arming.bytes ++ r.received

/-- A reply that fits a chunk: its gates pass at the first poll, one byte for each of its `4 + size` transfers. -/
def ChunkReply.fits (c : Chunk) (r : ChunkReply) : Prop := r.arming.ready = true ∧ r.received.length = 4 + c.size

/-- The events of one chunk (R186). -/
def Chunk.events (s : State) (buf : BufRef) (c : Chunk) (r : ChunkReply) : List Event :=
  armed s r.arming (.pageProgram c.start (c.payload s.hostMem buf)) r.received

/-- The host's memory after bytes have been stored in it one after another from address `k` on (41_read.md R171). -/
def Memory.fill (m : Memory) (k : Nat) : List Byte → Memory
  | [] => m
  | b :: bs => Memory.fill (Memory.write m k b) (k + 1) bs

/-! ## Operations -/

/-- The host may issue an operation other than the one that brings the block up (60_exceptions.md R253, R268): the session is
active, the block is idle; and the opcodes are distinct, as every instance's are (30_encoding.md R101). -/
structure State.Ready (s : State) : Prop where
  active : s.session = .active
  idle : s.control = []
  distinct : s.params.opcodes.distinct

/-- The end of an operation (10_state.md R37, 60_exceptions.md R268, R270): the result given, the latch empty, the block idle, the
bus released and the chip deselected. -/
def State.returned (s : State) (r : Result) : State :=
  { s with result := some r, latch := none, control := [], busHeld := false, csLevel := .high }

/-- `k` steps, stopping at the first refusal. -/
def steps : Nat → State → Answer
  | 0, s => .next s
  | k + 1, s =>
    match step s with
    | .next t => steps k t
    | .fault f => .fault f
    | .refused r => .refused r

/-- The operation's first act on the bus is a gate (40_dispatcher.md R146): not so for the status reads, the wake command and the
operations that begin with it, the end of the session, and a `writeBytes` of length 0. -/
def gatedFirst : Instr → Bool
  | .statusRead | .wakeCmd | .isBusy | .readStatusRegister | .initDevice | .found | .wakeup | .endSession => false
  | .writeBytes _ span => span.len != 0
  | .arrayReadLF _ | .arrayRead _ _ | .pageProgram _ _ | .blockErase4KCmd _ | .blockErase32KCmd _ | .blockErase64KCmd _
  | .chipEraseCmd | .statusWrite _ | .writeEnable | .idRead | .uidRead | .sleepCmd | .readByte _ | .readBytes _ _
  | .regionIsEmpty _ _ | .writeByte _ _ | .eraseBlock4K _ | .eraseBlock32K _ | .eraseBlock64K _ | .eraseChip
  | .readDeviceId | .readUniqueId | .sleep => true

/-- The operation can change the flash array or the chip's protection (20_memory.md R60): programs, erases, and the status write, by
itself or in bring-up. -/
def changesChip : Instr → Bool
  | .pageProgram _ _ | .blockErase4KCmd _ | .blockErase32KCmd _ | .blockErase64KCmd _ | .chipEraseCmd | .statusWrite _
  | .writeByte _ _ | .writeBytes _ _ | .eraseBlock4K _ | .eraseBlock32K _ | .eraseBlock64K _ | .eraseChip
  | .initDevice => true
  | .arrayReadLF _ | .arrayRead _ _ | .statusRead | .writeEnable | .idRead | .uidRead | .sleepCmd | .wakeCmd | .isBusy
  | .readStatusRegister | .readByte _ | .readBytes _ _ | .regionIsEmpty _ _ | .readDeviceId | .readUniqueId | .found
  | .sleep | .wakeup | .endSession => false

/-- The operands of a host operation are those of the request, where the operation has them (30_encoding.md R120, R121). -/
def carries (r : HostRequest) : Instr → Prop
  | .readByte addr => addr = r.addr
  | .readBytes addr span => addr = r.addr ∧ span.buf = r.buf ∧ span.len = r.len
  | .regionIsEmpty addr len => addr = r.addr ∧ len.toNat = r.len
  | .writeByte addr value => addr = r.addr ∧ value = r.value
  | .writeBytes addr span => addr = r.addr ∧ span.buf = r.buf ∧ span.len = r.len
  | .eraseBlock4K addr => addr = r.addr
  | .eraseBlock32K addr => addr = r.addr
  | .eraseBlock64K addr => addr = r.addr
  | .isBusy | .readStatusRegister | .eraseChip | .initDevice | .readDeviceId | .readUniqueId | .found | .sleep | .wakeup
  | .endSession => True
  | .arrayReadLF _ | .arrayRead _ _ | .pageProgram _ _ | .blockErase4KCmd _ | .blockErase32KCmd _ | .blockErase64KCmd _
  | .chipEraseCmd | .statusRead | .statusWrite _ | .writeEnable | .idRead | .uidRead | .sleepCmd | .wakeCmd => False

/-- The instruction a step runs: the one latched while an operation waits at its gate, else the one the next request decodes to. -/
def State.running? (s : State) : Option Instr :=
  match s.control with
  | _ :: _ => s.latch
  | [] =>
    match s.requests with
    | [] => none
    | r :: _ =>
      match decode s.params r with
      | .ok i => some i
      | .error _ => none

/-- Between two steps the block is idle, or the latched operation stands at a gate of its own program, with the rest of the program
still to run (10_state.md R30, R31). -/
def State.OnProgram (s : State) : Prop :=
  s.control = [] ∨
    ∃ i ms, s.latch = some i ∧ s.control = gate ++ ms ∧ gate ++ ms <:+ programOf s.params s.expectedId i

/-! ## What an operation may write -/

/-- Where an instruction may store in the host's memory: the buffer of a streaming read, and nowhere else (30_encoding.md R121, 41_read.md
R171). -/
def storesAt (x : Nat) : Instr → Prop
  | .readBytes _ span => span.buf ≤ x ∧ x < span.buf + span.len
  | .arrayRead _ n => commandBuf ≤ x ∧ x < commandBuf + n
  | .arrayReadLF _ | .pageProgram _ _ | .blockErase4KCmd _ | .blockErase32KCmd _ | .blockErase64KCmd _ | .chipEraseCmd
  | .statusRead | .statusWrite _ | .writeEnable | .idRead | .uidRead | .sleepCmd | .wakeCmd | .isBusy
  | .readStatusRegister | .readByte _ | .regionIsEmpty _ _ | .writeByte _ _ | .writeBytes _ _ | .eraseBlock4K _
  | .eraseBlock32K _ | .eraseBlock64K _ | .eraseChip | .initDevice | .readDeviceId | .readUniqueId | .found | .sleep
  | .wakeup | .endSession => False

/-- `UID` and `UID_VALID` are written by the unique-identifier read only, the host's memory by the streaming read only, and by that only in
its own buffer. -/
structure UidAndBufferKept (i : Instr) (s t : State) : Prop where
  uid : i ≠ .readUniqueId → i ≠ .uidRead → t.uid = s.uid ∧ t.uidValid = s.uidValid
  hostMem : (∀ x, ¬ storesAt x i) → t.hostMem = s.hostMem
  elsewhere : Memory.wf s.hostMem → ∀ x, ¬ storesAt x i → Memory.read t.hostMem x = Memory.read s.hostMem x

/-- Each working register is written only by the operations whose rules name it (10_state.md R29). -/
structure RegistersKept (i : Instr) (s t : State) : Prop where
  planner : (∀ a b, i ≠ .writeBytes a b) → t.rem = s.rem ∧ t.off = s.off ∧ t.cap = s.cap ∧ t.n = s.n
  samples : i ≠ .found → t.first = s.first ∧ t.cnt = s.cnt
  allFF : (∀ a n, i ≠ .regionIsEmpty a n) → t.allFF = s.allFF
  idr : i ∉ [.readDeviceId, .idRead, .found, .initDevice] → t.idr = s.idr
  csOut : i ≠ .initDevice → t.csOut = s.csOut
  addr : i ∈ [.isBusy, .readStatusRegister, .statusRead, .writeEnable, .eraseChip, .chipEraseCmd, .initDevice, .readDeviceId,
    .idRead, .readUniqueId, .uidRead, .found, .sleep, .sleepCmd, .wakeup, .wakeCmd, .endSession] → t.a = s.a
  stEnd : i = .endSession → t.st = s.st
  stWake : i ∈ [.wakeup, .wakeCmd] → t.st = s.st

/-! ## The frames a run sends (30_encoding.md R118, R119) -/

/-- The frames of a trace: for each `CS(low)` to the next `CS(high)`, the bytes sent (30_encoding.md R118). `open?` is the frame under
way. -/
def sentFrames (open? : Option (List Byte)) : List Event → List (List Byte)
  | [] => []
  | .cs .low :: es => sentFrames (some []) es
  | .cs .high :: es =>
    match open? with
    | some bytes => bytes :: sentFrames none es
    | none => sentFrames none es
  | .xfer sent _ :: es => sentFrames (open?.map (· ++ [sent])) es
  | .pinmodeOut _ :: es => sentFrames open? es
  | .busStart :: es => sentFrames open? es
  | .busStop :: es => sentFrames open? es
  | .begin _ :: es => sentFrames open? es
  | .finish :: es => sentFrames open? es

/-- The frame that a trace leaves under way. -/
def openFrame (open? : Option (List Byte)) : List Event → Option (List Byte)
  | [] => open?
  | .cs .low :: es => openFrame (some []) es
  | .cs .high :: es => openFrame none es
  | .xfer sent _ :: es => openFrame (open?.map (· ++ [sent])) es
  | .pinmodeOut _ :: es => openFrame open? es
  | .busStart :: es => openFrame open? es
  | .busStop :: es => openFrame open? es
  | .begin _ :: es => openFrame open? es
  | .finish :: es => openFrame open? es

/-- The bytes are the frame of a well-formed wire command. -/
def isFrame (p : Params) (bytes : List Byte) : Prop := ∃ j, decodeFrame p bytes = .ok j

/-- The micro-operations, run from a state with a frame under way, send only frames of wire commands, whatever bytes are received, and
test, branch and return only between frames. -/
def sendsFrames : List Micro → Option (List Byte) → State → Prop
  | [], open?, _ => open? = none
  | .csLow :: ms, _, s => sendsFrames ms (some []) s
  | .csHigh :: ms, open?, s => (∀ bytes ∈ open?, isFrame s.params bytes) ∧ sendsFrames ms none s
  | .xfer out keep :: ms, open?, s => ∀ r, sendsFrames ms (open?.map (· ++ [out.eval s])) (keep.store r s)
  | .gateTest :: ms, open?, s => open? = none ∧ sendsFrames ms none s
  | .checkId :: ms, open?, s => open? = none ∧ sendsFrames ms none s
  | .judge :: ms, open?, s => open? = none ∧ sendsFrames ms none s
  | .ret _ :: _, open?, _ => open? = none
  | .setA addr :: ms, open?, s => sendsFrames ms open? (perform (.setA addr) s).1
  | .planStart len :: ms, open?, s => sendsFrames ms open? (perform (.planStart len) s).1
  | .takeChunk :: ms, open?, s => sendsFrames ms open? (perform .takeChunk s).1
  | .advance :: ms, open?, s => sendsFrames ms open? (perform .advance s).1
  | .pinOut :: ms, open?, s => sendsFrames ms open? s
  | .busStart :: ms, open?, s => sendsFrames ms open? s
  | .busStop :: ms, open?, s => sendsFrames ms open? s
  | .begin :: ms, open?, s => sendsFrames ms open? s
  | .finish :: ms, open?, s => sendsFrames ms open? s
  | .setAllFF :: ms, open?, s => sendsFrames ms open? s
  | .setIdr :: ms, open?, s => sendsFrames ms open? s
  | .setUidValid :: ms, open?, s => sendsFrames ms open? s
  | .setCnt _ :: ms, open?, s => sendsFrames ms open? s

/-- Every frame the block has sent is that of a wire command, and what is still to run sends only such frames. -/
structure State.FramesInv (s : State) : Prop where
  params : s.params.wf
  sent : ∀ bytes ∈ sentFrames none s.trace, isFrame s.params bytes
  pending : sendsFrames s.control (openFrame none s.trace) s

/-! ## The life of a bus trace (R263 to R267) -/

/-- Where the bus is after a trace. -/
inductive Phase where
  /-- No event yet. -/
  | fresh
  /-- The line is an output. -/
  | lineOut
  /-- The bus session is started, the line not yet driven. -/
  | started
  /-- Between command cycles. -/
  | idle
  /-- The bus is acquired, the chip not yet selected. -/
  | held
  /-- The chip is selected, nothing transferred yet. -/
  | selected
  /-- At least the opcode has been transferred. -/
  | moving
  /-- The chip is deselected, the bus still held. -/
  | released
  /-- The bus session is over. -/
  | stopped
  deriving DecidableEq, Repr

/-- The phase after one more event, if the grammar of R267 allows the event there; every `BEGIN` carries the instance's `BUS_CFG`
(R263), and the first transfer after `CS(low)` an opcode (R264). -/
def Phase.next (p : Params) (cs : CsId) (cfg : BusCfg) (ph : Phase) (e : Event) : Option Phase :=
  match e with
  | .pinmodeOut c => if ph = .fresh ∧ c = cs then some .lineOut else none
  | .busStart => if ph = .lineOut then some .started else none
  | .busStop => if ph = .idle then some .stopped else none
  | .begin c => if ph = .idle ∧ c = cfg then some .held else none
  | .finish => if ph = .released then some .idle else none
  | .cs .low => if ph = .held then some .selected else none
  | .cs .high => if ph = .started then some .idle else if ph = .moving then some .released else none
  | .xfer sent _ =>
    if ph = .moving ∨ (ph = .selected ∧ sent ∈ p.opcodes.bytes) then some .moving else none

/-- The phase after a trace that the grammar allows; `none` for one it does not. -/
def lifePhase (p : Params) (cs : CsId) (cfg : BusCfg) (trace : List Event) : Option Phase :=
  trace.foldl (fun ph e => ph.bind (·.next p cs cfg e)) (some .fresh)

/-- The phase of a state's own trace. -/
def State.phase (s : State) : Option Phase := lifePhase s.params s.csId s.busCfg s.trace

/-! ## The invariant -/

/-- What `SESSION` is in a phase (10_state.md R24). -/
def Phase.session : Phase → Session
  | .fresh => .constructed
  | .lineOut => .constructed
  | .stopped => .ended
  | _ => .active

/-- What `BUS_HELD` is in a phase: true from a `BEGIN` to its `END` (R25). -/
def Phase.busHeld : Phase → Bool
  | .held => true
  | .selected => true
  | .moving => true
  | .released => true
  | _ => false

/-- What `CS_LEVEL` is in a phase: the level last driven, not driven before bring-up drives it high (R26). -/
def Phase.level? : Phase → Option Level
  | .fresh => none
  | .lineOut => none
  | .started => none
  | .selected => some .low
  | .moving => some .low
  | _ => some .high

/-- The byte sent is an opcode. -/
def Out.isOpcode : Out → Bool
  | .opcode _ => true
  | .byte _ | .fill | .addrHigh | .addrMid | .addrLow | .buf _ _ => false

/-- The phase a micro-operation leads to, where the discipline of the pseudocode allows it; a return is `disciplined`'s. -/
def Micro.next (ph : Phase) (m : Micro) : Option Phase :=
  match m with
  | .pinOut => if ph = .fresh then some .lineOut else none
  | .busStart => if ph = .lineOut then some .started else none
  | .busStop => if ph = .idle then some .stopped else none
  | .begin => if ph = .idle then some .held else none
  | .finish => if ph = .released then some .idle else none
  | .csLow => if ph = .held then some .selected else none
  | .csHigh => if ph = .started then some .idle else if ph = .moving then some .released else none
  | .xfer out _ => if ph = .moving ∨ (ph = .selected ∧ out.isOpcode = true) then some .moving else none
  | .gateTest | .checkId | .judge => if ph = .idle then some .idle else none
  | .setA _ | .setAllFF | .planStart _ | .takeChunk | .advance | .setIdr | .setUidValid | .setCnt _ => some ph
  | .ret _ => none

/-- The micro-operation is a return. -/
def Micro.isReturn : Micro → Bool
  | .ret _ => true
  | .pinOut | .busStart | .busStop | .begin | .finish | .csLow | .csHigh | .xfer _ _ | .gateTest | .setA _ | .setAllFF
  | .planStart _ | .takeChunk | .advance | .setIdr | .checkId | .setUidValid | .setCnt _ | .judge => false

/-- The micro-operations keep the bus discipline from a phase on and return only with the bus released (10_state.md R37). -/
def disciplined : Phase → List Micro → Bool
  | _, [] => false
  | ph, m :: ms =>
    if m.isReturn then ph == .idle || ph == .stopped
    else
      match m.next ph with
      | some ph' => disciplined ph' ms
      | none => false

/-- What a state is in a phase: the lifecycle and bus registers agree with the trace, and the control position is idle between
operations or keeps the bus discipline. -/
structure InPhase (s : State) (ph : Phase) : Prop where
  trace : s.phase = some ph
  session : s.session = ph.session
  busHeld : s.busHeld = ph.busHeld
  csOut : s.csOut = (ph != .fresh)
  level : ∀ l, ph.level? = some l → s.csLevel = l
  idle : s.control = [] → ph = .fresh ∨ ph = .idle ∨ ph = .stopped
  running : s.control ≠ [] → disciplined ph s.control = true
  latch : s.latch.isSome = !s.control.isEmpty

/-- The machine's invariant: the bus trace is a life of R267 so far, and the registers agree with it. -/
def State.Inv (s : State) : Prop := ∃ ph, InPhase s ph

/-- What a chip never changes: `FLASH_BYTES` (00_scope.md R10), its factory-programmed identifiers (20_memory.md R86, R87), and the
parameters of the model's chip. -/
def Chip.constants (c : Chip) : Nat × Ident × Vector Byte 8 × Nat × Nat × Gaps :=
  (c.flashBytes, c.ident, c.uid, c.kProgram, c.kErase, c.gaps)

/-- What an environment never changes. -/
def Env.constants? : Env → Option (Nat × Ident × Vector Byte 8 × Nat × Nat × Gaps)
  | .line _ => none
  | .chip c => some c.constants

/-- The chip, if there is one, has a size in the range of 00_scope.md R10, and protection bits that its kind of chip can have. -/
def Env.legal : Env → Prop
  | .line _ => True
  | .chip c => c.fits ∧ c.protLegal

/-- Both memories are in their canonical form, and the chip is one that there can be. -/
def State.MemInv (s : State) : Prop := Memory.wf s.hostMem ∧ Memory.wf s.flash ∧ s.env.legal

/-- A reference chip (95_test_vectors.md section 0) that is awake, between frames, in no operation, and takes no time for one: every
status poll finds it ready. -/
structure Chip.Prompt (c : Chip) : Prop where
  reference : c.gaps = .reference
  awake : c.asleep = false
  settled : c.waking = 0
  ready : c.busy = 0
  program : c.kProgram = 0
  erase : c.kErase = 0
  between : c.frame = []

end Sys2Proof.Machine
end

