-- ==== Sys2Proof/Certificates/Slice0/Obligations.lean ====
section
/-! DEFINITION. The statements for the provers. Statements of one operation's effect are over a data line whose answers are given
(20_memory.md R88: any bytes), so that every byte received is a variable; the operation's gates pass at their first poll there, and
`Obligations.GatePolls` says what each earlier poll that reads busy adds. The conclusion gives the whole next state, so each says
also what the operation leaves unchanged. That a working register (10_state.md R29) still holds its last value when the operation has
returned is the model's choice, since D24 calls it unspecified between operations (assumption log 24). A wire command asked for by itself
is the model's own port (assumption log 3). -/

open Sys2Proof Sys2Proof.Machine

/-! ## Encodings -/

/-- Words of the opcode table written out bit by bit from 30_encoding.md R101 and R120, and, for the commands whose first byte is also a
selector, their frames, byte for byte as the examples of R102 to R104 and R109 to R111 send them (the opcode values and FILL are R101's
and R10's defaults: assumption log 5; which words are read as selectors is the model's choice: assumption log 4). -/
def Obligations.DecodingSanity : Prop :=
  decodeTableWord 8 0b00100000 = some (.blockErase4KCmd 0) ∧
  decodeTableWord 8 0b01010010 = some (.blockErase32KCmd 0) ∧
  decodeTableWord 8 0b11011000 = some (.blockErase64KCmd 0) ∧
  decodeTableWord 8 0b01100000 = some .chipEraseCmd ∧
  decodeTableWord 8 0b10011111 = some .idRead ∧
  decodeTableWord 8 0b01001011 = some .uidRead ∧
  decodeTableWord 8 0b10111001 = some .sleepCmd ∧
  decodeTableWord 8 0b10101011 = some .wakeCmd ∧
  decodeTableWord 5 0b00000 = some .isBusy ∧
  decodeTableWord 5 0b00010 = some (.readByte 0) ∧
  decodeTableWord 5 0b00101 = some (.writeByte 0 0) ∧
  decodeTableWord 5 0b01010 = some .eraseChip ∧
  decodeTableWord 5 0b10001 = some .endSession ∧
  decodeTableWord 5 0b10010 = none ∧
  decodeFrame Config.params [0x03, 0x01, 0x23, 0x45, 0x00] = .ok (.arrayReadLF 0x012345) ∧
  decodeFrame Config.params [0x0B, 0x00, 0x01, 0x00, 0x00, 0x00, 0x00] = .ok (.arrayRead 0x000100 2) ∧
  decodeFrame Config.params [0x02, 0x01, 0x23, 0x45, 0xA5] = .ok (.pageProgram 0x012345 [0xA5]) ∧
  decodeFrame Config.params [0x05, 0x00] = .ok .statusRead ∧
  decodeFrame Config.params [0x01, 0x00] = .ok (.statusWrite 0x00) ∧
  decodeFrame Config.params [0x06] = .ok .writeEnable ∧
  decodeFrame Config.params [0x04] = .error (.unknownOpcode 0x04)

/-- Decoding the request of a well-formed instruction gives it back, for every instruction with every operand, under every distinct
choice of the opcodes (30_encoding.md sections 1, 2, 6). -/
def Obligations.DecodeEncode : Prop :=
  ∀ (p : Params) (i : Instr), p.opcodes.distinct → i.wf p = true → decode p (encode p i) = .ok i

/-- A frame that decodes is exactly the frame the block sends for the instruction it decodes to, and that instruction is a
well-formed wire command (R100, R118): no two frames share an instruction, no bit of a frame is dropped. -/
def Obligations.DecodeFrameSound : Prop :=
  ∀ (p : Params) (bytes : List Byte) (i : Instr), decodeFrame p bytes = .ok i →
    encodeFrame p i = bytes ∧ i.wf p = true ∧ i.wire?.isSome = true

/-- A host request decodes only to a host operation with its own selector and its own operands, and reaches the chip by no wire command
of the host's choice (30_encoding.md R120, R121; 20_memory.md R60). A length that does not fit is refused by name, and every request with
an assigned selector and a fitting length decodes (R121, R122; 93_implementation_defined.md U10). The form of a request is the model's
(assumption log 2). -/
def Obligations.DecodeHostSound : Prop :=
  ∀ (p : Params) (r : HostRequest), 9 ≤ p.lenBits →
    (∀ i, decodeHost p r = .ok i → i.wire? = none ∧ i.sel? = some r.sel ∧ i.wf p = true ∧ carries r i) ∧
    (r.sel = 3 ∨ r.sel = 6 → 2 ^ p.lenBits ≤ r.len → decodeHost p r = .error (.lengthTooWide r.len)) ∧
    (r.sel = 4 → 256 ≤ r.len → decodeHost p r = .error (.regionTooLong r.len)) ∧
    (r.sel.toNat < 18 → (r.sel = 3 ∨ r.sel = 6 → r.len < 2 ^ p.lenBits) → (r.sel = 4 → r.len < 256) →
      ∃ i, decodeHost p r = .ok i)

/-- `send_addr` sends a[23:16], a[15:8], a[7:0] in this order, discards what it receives and writes no register; three bytes determine
the address (40_dispatcher.md section 2; 30_encoding.md section 3). -/
def Obligations.SendAddr : Prop :=
  (∀ (s : State) (ms : List Micro) (r2 r1 r0 : Byte) (rest : List Byte), s.env = .line (r2 :: r1 :: r0 :: rest) →
    drain (sendAddr ++ ms) s =
      drain ms { s with
        env := .line rest
        trace := s.trace ++ [.xfer (s.a.extractLsb' 16 8) r2, .xfer (s.a.extractLsb' 8 8) r1, .xfer (s.a.extractLsb' 0 8) r0] }) ∧
  ∀ a : Addr, joinAddr (addrHigh a) (addrMid a) (addrLow a) = a

/-! ## What is refused -/

/-- The lifecycle: in `constructed` everything but bring-up is refused, in `active` bring-up, in `ended` everything (60_exceptions.md
R253); this check comes before any other (R255). -/
def Obligations.OutsideLifecycleRefused : Prop :=
  ∀ (i : Instr) (s : State),
    (s.session = .constructed ∧ i ≠ .initDevice) ∨ (s.session = .active ∧ i = .initDevice) ∨ s.session = .ended →
    exec i s = .refused (.outsideLifecycle s.session)

/-- A request issued while an operation runs is refused (10_state.md R31; 60_exceptions.md R252). -/
def Obligations.RequestWhileRunningRefused : Prop :=
  ∀ (i : Instr) (s : State), s.control ≠ [] →
    (s.session = .constructed ∧ i = .initDevice) ∨ (s.session = .active ∧ i ≠ .initDevice) →
    exec i s = .refused .requestWhileRunning

/-- Selectors 18 to 31 name no operation and are refused by a step of an idle block (30_encoding.md R122). -/
def Obligations.UnknownSelectorRefused : Prop :=
  ∀ (s : State) (r : HostRequest) (rest : List Request), s.control = [] → s.requests = .host r :: rest → 18 ≤ r.sel.toNat →
    step s = .refused (.undecodable (.unknownSelector r.sel))

/-- Every request that `SESSION` allows is accepted by an idle block: no operand is checked (20_memory.md R64; 60_exceptions.md R253).
The operation is latched or has already returned. -/
def Obligations.PermittedAccepted : Prop :=
  ∀ (i : Instr) (s : State), s.control = [] →
    (s.session = .constructed ∧ i = .initDevice) ∨ (s.session = .active ∧ i ≠ .initDevice) →
    ∃ t, exec i s = .next t ∧ t.requests = s.requests ∧
      ((t.latch = some i ∧ t.control ≠ [] ∧ t.result = none) ∨ (t.latch = none ∧ t.control = [] ∧ t.result.isSome = true))

/-! ## Steps -/

/-- What a step of this model does: an idle block takes the first request, consumes it and runs the instruction it decodes to, and refuses
a request that decodes to none; an idle block with no request stays as it is; an operation that waits at its gate runs on from its
control position. The spec's step is one transport event (D19): that a step runs to the return or to the next busy poll is the model's
choice (assumption log 1), and so are the list of requests a step takes the first of (log 2), the idle step (log 16) and a refusal that
carries no state (log 17). -/
def Obligations.StepRunsDecoded : Prop :=
  (∀ (s : State) (r : Request) (rest : List Request) (i : Instr),
    s.control = [] → s.requests = r :: rest → decode s.params r = .ok i → step s = exec i { s with requests := rest }) ∧
  (∀ (s : State) (r : Request) (rest : List Request) (e : DecodeError),
    s.control = [] → s.requests = r :: rest → decode s.params r = .error e → step s = .refused (.undecodable e)) ∧
  (∀ s : State, s.control = [] → s.requests = [] → step s = .next s) ∧
  ∀ s : State, s.control ≠ [] → step s = .next (drain s.control s)

/-- The gate (40_dispatcher.md R145; 60_exceptions.md R256). An operation at its gate that reads busy in `k` polls has emitted exactly
`k` status polls and is still at its gate, with no result given: while every poll reads busy, the gate never exits. When the next poll
reads not busy, it has emitted exactly `k + 1` and goes on with what follows the gate. One step of the model polls once, or goes on. -/
def Obligations.GatePolls : Prop :=
  ∀ (s : State) (ms : List Micro) (busy : List (Byte × Byte)) (rest : List Byte),
    s.control = gate ++ ms → (∀ p ∈ busy, busyBit p.2 = true) →
    s.env = .line (busy.flatMap (fun p => [p.1, p.2]) ++ rest) →
    (∃ t, steps busy.length s = .next t ∧ t.control = gate ++ ms ∧ t.latch = s.latch ∧ t.result = s.result ∧
      t.trace = s.trace ++ busy.flatMap (fun p => pollCycle s p.1 p.2)) ∧
    ∀ x st rest', rest = x :: st :: rest' → busyBit st = false →
      steps (busy.length + 1) s =
        .next (drain ms { s with
          st := st, busHeld := false, csLevel := .high, env := .line rest'
          trace := s.trace ++ busy.flatMap (fun p => pollCycle s p.1 p.2) ++ pollCycle s x st })

/-- A gated operation whose first poll reads busy has polled once and waits at its gate: its request is latched, no result is given,
and nothing but the poll is on the bus (40_dispatcher.md R145, R146). The next step answers what `exec` of the operation answers from the
state in which that poll has been made: a busy poll adds its own cycle and nothing else, so every statement of an operation's effect
holds after any number of them. That `exec` answers in the middle of the operation, after one busy poll, is the model's choice
(assumption log 1). -/
def Obligations.BusyPollWaits : Prop :=
  ∀ (i : Instr) (s : State) (x st : Byte) (rest : List Byte), s.Ready → gatedFirst i = true → busyBit st = true →
    s.env = .line (x :: st :: rest) →
    ∃ t, exec i s = .next t ∧ t.latch = some i ∧ t.result = none ∧ (∃ ms, t.control = gate ++ ms) ∧ t.st = st ∧
      t.trace = s.trace ++ pollCycle s x st ∧ t.env = .line rest ∧
      step t = exec i { s with
        st := st, busHeld := false, csLevel := .high, env := .line rest, trace := s.trace ++ pollCycle s x st }

/-- A busy poll only adds its cycle, at every gate of an operation (R145). A step reads `pre`, then `x` and `st` in a poll that reads busy,
and waits. The next step then answers what the first would have answered had that poll not been there, but for the poll's own cycle in
the trace. That a step ends at a busy poll is the model's choice (assumption log 1). -/
def Obligations.BusyPollAdds : Prop :=
  ∀ (s t u : State) (pre post : List Byte) (x st : Byte), s.OnProgram → s.env = .line (pre ++ x :: st :: post) →
    step s = .next t → t.control ≠ [] → t.env = .line post → t.draws = s.draws →
    step { s with env := .line (pre ++ post) } = .next u →
    ∃ before after, t.trace = s.trace ++ before ++ pollCycle s x st ∧ u.trace = s.trace ++ before ++ after ∧
      step t = .next { u with trace := t.trace ++ after }

/-- A step of `exec`'s grain, which is the model's choice (assumption log 1), is a run of steps of one transport event each, the spec's
(92_eei_decisions.md D19; 00_scope.md R16): a step is some number of ticks, and a tick emits at most one event. -/
def Obligations.StepIsTicks : Prop :=
  (∀ s t : State, step s = .next t → ∃ k, ticks k s = .next t) ∧
  ∀ s t : State, tick s = .next t → t.trace = s.trace ∨ ∃ e, t.trace = s.trace ++ [e]

/-! ## Status operations -/

/-- `isBusy` (40_dispatcher.md R148): exactly one command cycle, no gate and no write-enable, in any environment, and on a line the
byte it answers; true iff bit 0 of the status byte is set; only `ST` and the bus registers written; refused outside `active`. -/
def Obligations.IsBusy : Prop :=
  ∀ s : State,
    (s.Ready → ∃ x st e d, exec .isBusy s = .next (State.returned
      { s with st := st, env := e, draws := d, trace := s.trace ++ pollCycle s x st } (.bit (st.getLsbD 0)))) ∧
    (∀ x st rest, s.Ready → s.env = .line (x :: st :: rest) → exec .isBusy s = .next (State.returned
      { s with st := st, env := .line rest, trace := s.trace ++ pollCycle s x st } (.bit (st.getLsbD 0)))) ∧
    (s.session ≠ .active → exec .isBusy s = .refused (.outsideLifecycle s.session))

/-- `readStatusRegister` (R149): as `isBusy`, with the whole status byte as its result. -/
def Obligations.ReadStatusRegister : Prop :=
  ∀ s : State,
    (s.Ready → ∃ x st e d, exec .readStatusRegister s = .next (State.returned
      { s with st := st, env := e, draws := d, trace := s.trace ++ pollCycle s x st } (.byte st))) ∧
    (∀ x st rest, s.Ready → s.env = .line (x :: st :: rest) → exec .readStatusRegister s = .next (State.returned
      { s with st := st, env := .line rest, trace := s.trace ++ pollCycle s x st } (.byte st))) ∧
    (s.session ≠ .active → exec .readStatusRegister s = .refused (.outsideLifecycle s.session))

/-- `STATUS_WRITE` by itself: a write-type command with one value byte (30_encoding.md R110). -/
def Obligations.StatusWriteCommand : Prop :=
  ∀ (s : State) (v : Byte) (g : Arming) (received rest : List Byte), s.Ready → g.ready = true → received.length = 2 →
    s.env = .line (g.bytes ++ received ++ rest) →
    exec (.statusWrite v) s = .next (State.returned
      { s with st := g.st2, env := .line rest, trace := s.trace ++ armed s g (.statusWrite v) received } .done)

/-- `WRITE_ENABLE` by itself: a gated single-byte command, followed by the release of the bus (R111). -/
def Obligations.WriteEnableCommand : Prop :=
  ∀ (s : State) (x st w : Byte) (rest : List Byte), s.Ready → busyBit st = false → s.env = .line (x :: st :: w :: rest) →
    exec .writeEnable s = .next (State.returned
      { s with st := st, env := .line rest, trace := s.trace ++ gated s x st .writeEnable [w] } .done)

/-! ## Reads -/

/-- `readByte` and the wire command `ARRAY_READ_LF`: a gate, then one frame whose fifth received byte is the result (41_read.md R170;
30_encoding.md R102). -/
def Obligations.ReadByte : Prop :=
  ∀ (s : State) (addr : Addr) (x st r0 r1 r2 r3 d : Byte) (rest : List Byte), s.Ready → busyBit st = false →
    s.env = .line (x :: st :: r0 :: r1 :: r2 :: r3 :: d :: rest) →
    let t : State := { s with
      a := addr, st := st, v := d, env := .line rest
      trace := s.trace ++ gated s x st (.arrayReadLF addr) [r0, r1, r2, r3, d] }
    exec (.readByte addr) s = .next (t.returned (.byte d)) ∧ exec (.arrayReadLF addr) s = .next (t.returned (.byte d))

/-- `readByte` against a chip that is busy for any number of polls (R170): the completed gate, then one command cycle of five transfers
whose fifth received byte is the result, at every address; refused outside `active`. Each poll that reads busy is one more step. -/
def Obligations.ReadByteGated : Prop :=
  ∀ (s : State) (addr : Addr) (busy : List (Byte × Byte)) (x st r0 r1 r2 r3 d : Byte) (rest : List Byte),
    (s.Ready → (∀ p ∈ busy, busyBit p.2 = true) → busyBit st = false →
      s.env = .line (busy.flatMap (fun p => [p.1, p.2]) ++ x :: st :: r0 :: r1 :: r2 :: r3 :: d :: rest) →
      ∃ t, exec (.readByte addr) s = .next t ∧
        steps busy.length t = .next (State.returned
          { s with
            a := addr, st := st, v := d, env := .line rest
            trace := s.trace ++ busy.flatMap (fun p => pollCycle s p.1 p.2)
              ++ gated s x st (.arrayReadLF addr) [r0, r1, r2, r3, d] } (.byte d))) ∧
    (s.session ≠ .active → exec (.readByte addr) s = .refused (.outsideLifecycle s.session))

/-- `readBytes` and the wire command `ARRAY_READ`: a gate, then one frame of `5 + len` transfers, the bytes received after the fifth
stored from index 0 of the caller's buffer, which `readBytes` names by reference (41_read.md R171; 30_encoding.md R103). The buffer of the
stand-alone command is the model's choice (assumption log 3). -/
def Obligations.ReadBytes : Prop :=
  ∀ (s : State) (addr : Addr) (buf : BufRef) (x st : Byte) (head data rest : List Byte), s.Ready → busyBit st = false →
    head.length = 5 → s.env = .line (x :: st :: head ++ data ++ rest) →
    let t (into : BufRef) : State := { s with
      a := addr, st := st, hostMem := Memory.fill s.hostMem into data, env := .line rest
      trace := s.trace ++ gated s x st (.arrayRead addr data.length) (head ++ data) }
    exec (.readBytes addr ⟨buf, data.length⟩) s = .next ((t buf).returned (.buffer data.length)) ∧
    exec (.arrayRead addr data.length) s = .next ((t commandBuf).returned (.buffer data.length))

/-- What the host's memory holds after bytes have been stored in the buffer `buf`: `buf[i]` the i-th of them, everything else as before
(R171: "`buf[i]` for `i >= len` is untouched"). -/
def Obligations.BufferFilled : Prop :=
  ∀ (m : Memory) (buf : BufRef) (bytes : List Byte), Memory.wf m →
    (∀ i, Memory.read (Memory.fill m buf bytes) (buf + i) = bytes.getD i (Memory.read m (buf + i))) ∧
    ∀ x, x < buf → Memory.read (Memory.fill m buf bytes) x = Memory.read m x

/-- `regionIsEmpty`: the frame of `readBytes`; the result is true iff every byte received after the fifth is 0xFF (R172). -/
def Obligations.RegionIsEmpty : Prop :=
  ∀ (s : State) (addr : Addr) (len : Byte) (x st : Byte) (head data rest : List Byte), s.Ready → busyBit st = false →
    head.length = 5 → data.length = len.toNat → s.env = .line (x :: st :: head ++ data ++ rest) →
    exec (.regionIsEmpty addr len) s = .next (State.returned
      { s with
        a := addr, st := st, allFF := data.all (· == 0xFF), env := .line rest
        trace := s.trace ++ gated s x st (.arrayRead addr len.toNat) (head ++ data) } (.bit (data.all (· == 0xFF))))

/-! ## Writes -/

/-- `writeByte`: a write-type command with one payload byte (42_write.md R185). -/
def Obligations.WriteByte : Prop :=
  ∀ (s : State) (addr : Addr) (value : Byte) (g : Arming) (received rest : List Byte), s.Ready → g.ready = true →
    received.length = 5 → s.env = .line (g.bytes ++ received ++ rest) →
    exec (.writeByte addr value) s = .next (State.returned
      { s with
        a := addr, st := g.st2, env := .line rest
        trace := s.trace ++ armed s g (.pageProgram addr [value]) received } .done)

/-- `PAGE_PROGRAM` by itself, with any payload (30_encoding.md R104). -/
def Obligations.PageProgramCommand : Prop :=
  ∀ (s : State) (addr : Addr) (payload : List Byte) (g : Arming) (received rest : List Byte), s.Ready → g.ready = true →
    received.length = 4 + payload.length → s.env = .line (g.bytes ++ received ++ rest) →
    exec (.pageProgram addr payload) s = .next (State.returned
      { s with
        a := addr, st := g.st2, env := .line rest
        trace := s.trace ++ armed s g (.pageProgram addr payload) received } .done)

/-- `writeBytes` with at least one byte: one write-type page-program command for each chunk of the plan, in order; the registers of
the planner at their last values (42_write.md R186, R187). -/
def Obligations.WriteBytes : Prop :=
  ∀ (s : State) (addr : Addr) (buf : BufRef) (len : Nat) (replies : List ChunkReply) (c : Chunk) (r : ChunkReply) (rest : List Byte), s.Ready →
    List.Forall₂ ChunkReply.fits (plan addr len) replies → (plan addr len).getLast? = some c → replies.getLast? = some r →
    s.env = .line (replies.flatMap ChunkReply.bytes ++ rest) →
    exec (.writeBytes addr ⟨buf, len⟩) s = .next (State.returned
      { s with
        a := addr + BitVec.ofNat 24 len, rem := 0, off := len, cap := 256, n := BitVec.ofNat 9 c.size
        st := r.arming.st2, env := .line rest
        trace := s.trace ++ ((plan addr len).zip replies).flatMap (fun p => p.1.events s buf p.2) } .done)

/-- `writeBytes` with no byte returns at once with no bus activity at all, in any environment (R187). -/
def Obligations.WriteBytesNothing : Prop :=
  ∀ (s : State) (addr : Addr) (buf : BufRef), s.Ready →
    exec (.writeBytes addr ⟨buf, 0⟩) s = .next
      { s with
        a := addr, rem := 0, off := 0, cap := BitVec.ofNat 9 (256 - addr.toNat % 256)
        result := some .done, latch := none, control := [] }

/-- No chunk of the plan crosses a page boundary, and none is empty (42_write.md R188). -/
def Obligations.PageInvariant : Prop :=
  ∀ (addr : Addr) (len : Nat), ∀ c ∈ plan addr len,
    1 ≤ c.size ∧ c.size ≤ 256 ∧ c.start.toNat / 256 = (c.start.toNat + c.size - 1) / 256

/-- The chunks cover the buffer exactly: their sizes sum to `len`, their payloads concatenated are `buf[0 .. len-1]`, and each starts
at `addr` plus the bytes before it, modulo 2^24 (42_write.md R189). -/
def Obligations.PlanComplete : Prop :=
  ∀ (m : Memory) (buf : BufRef) (addr : Addr) (len : Nat),
    ((plan addr len).map Chunk.size).sum = len ∧
    (plan addr len).flatMap (Chunk.payload m buf) = (List.range len).map (fun i => Memory.read m (buf + i)) ∧
    ∀ (k : Nat) (c : Chunk), (plan addr len)[k]? = some c →
      c.off = (((plan addr len).take k).map Chunk.size).sum ∧ c.start.toNat = (addr.toNat + c.off) % 2 ^ 24

/-! ## Erases -/

/-- The three block erases and their wire commands: a write-type command with the address as given (43_erase.md R200 to R202;
30_encoding.md R105 to R107). -/
def Obligations.BlockErases : Prop :=
  ∀ (s : State) (addr : Addr) (g : Arming) (received rest : List Byte), s.Ready → g.ready = true → received.length = 4 →
    s.env = .line (g.bytes ++ received ++ rest) →
    let t (i : Instr) : State :=
      { s with a := addr, st := g.st2, env := .line rest, trace := s.trace ++ armed s g i received }
    exec (.eraseBlock4K addr) s = .next ((t (.blockErase4KCmd addr)).returned .done) ∧
    exec (.eraseBlock32K addr) s = .next ((t (.blockErase32KCmd addr)).returned .done) ∧
    exec (.eraseBlock64K addr) s = .next ((t (.blockErase64KCmd addr)).returned .done) ∧
    exec (.blockErase4KCmd addr) s = .next ((t (.blockErase4KCmd addr)).returned .done) ∧
    exec (.blockErase32KCmd addr) s = .next ((t (.blockErase32KCmd addr)).returned .done) ∧
    exec (.blockErase64KCmd addr) s = .next ((t (.blockErase64KCmd addr)).returned .done)

/-- `eraseChip` and its wire command: a write-type command with no address (43_erase.md R203; 30_encoding.md R108). -/
def Obligations.ChipErase : Prop :=
  ∀ (s : State) (g : Arming) (r : Byte) (rest : List Byte), s.Ready → g.ready = true → s.env = .line (g.bytes ++ r :: rest) →
    let t : State := { s with st := g.st2, env := .line rest, trace := s.trace ++ armed s g .chipEraseCmd [r] }
    exec .eraseChip s = .next (t.returned .done) ∧ exec .chipEraseCmd s = .next (t.returned .done)

/-- `eraseChip` against a chip that is busy for any number of polls at either gate (R203): a completed gate, a write-enable cycle, a
completed gate, one command cycle of one transfer; no register but `ST` written. Each poll that reads busy is one more step. -/
def Obligations.EraseChipGated : Prop :=
  ∀ (s : State) (busy1 busy2 : List (Byte × Byte)) (g : Arming) (r : Byte) (rest : List Byte), s.Ready → g.ready = true →
    (∀ p ∈ busy1, busyBit p.2 = true) → (∀ p ∈ busy2, busyBit p.2 = true) →
    s.env = .line (busy1.flatMap (fun p => [p.1, p.2]) ++ [g.x1, g.st1, g.w] ++ busy2.flatMap (fun p => [p.1, p.2])
      ++ [g.x2, g.st2, r] ++ rest) →
    ∃ t, exec .eraseChip s = .next t ∧
      steps (busy1.length + busy2.length) t = .next (State.returned
        { s with
          st := g.st2, env := .line rest
          trace := s.trace ++ busy1.flatMap (fun p => pollCycle s p.1 p.2) ++ gated s g.x1 g.st1 .writeEnable [g.w]
            ++ busy2.flatMap (fun p => pollCycle s p.1 p.2) ++ gated s g.x2 g.st2 .chipEraseCmd [r] } .done)

/-! ## Lifecycle -/

/-- Bring-up with no identifier expected: the line an output, the bus session, the line high, the ungated wake, and the status write of
0x00; no identifier is read (44_lifecycle.md R215). -/
def Obligations.InitUnchecked : Prop :=
  ∀ (s : State) (w : Byte) (g : Arming) (received rest : List Byte), s.session = .constructed → s.control = [] →
    s.params.opcodes.distinct → s.expectedId = 0x0000 → g.ready = true → received.length = 2 →
    s.env = .line (w :: g.bytes ++ received ++ rest) →
    exec .initDevice s = .next (State.returned
      { s with
        session := .active, csOut := true, st := g.st2, env := .line rest
        trace := s.trace ++ [.pinmodeOut s.csId, .busStart, .cs .high] ++ frameCycle s .wakeCmd [w]
          ++ armed s g (.statusWrite 0x00) received } (.bit true))

/-- Bring-up with the expected identifier read: as without a check, with one gated identifier read before the status write (R215). -/
def Obligations.InitMatch : Prop :=
  ∀ (s : State) (w : Byte) (m : Sample) (g : Arming) (received rest : List Byte), s.session = .constructed → s.control = [] →
    s.params.opcodes.distinct → s.expectedId ≠ 0x0000 → busyBit m.st = false → m.ident = s.expectedId → g.ready = true →
    received.length = 2 → s.env = .line (w :: m.bytes ++ g.bytes ++ received ++ rest) →
    exec .initDevice s = .next (State.returned
      { s with
        session := .active, csOut := true, st := g.st2, hi := m.hi, lo := m.lo, idr := m.ident, env := .line rest
        trace := s.trace ++ [.pinmodeOut s.csId, .busStart, .cs .high] ++ frameCycle s .wakeCmd [w] ++ m.events s
          ++ armed s g (.statusWrite 0x00) received } (.bit true))

/-- Bring-up with another identifier read: false, no status write, and the session is active all the same (R215, decision D28). -/
def Obligations.InitMismatch : Prop :=
  ∀ (s : State) (w : Byte) (m : Sample) (rest : List Byte), s.session = .constructed → s.control = [] →
    s.params.opcodes.distinct → s.expectedId ≠ 0x0000 → busyBit m.st = false → m.ident ≠ s.expectedId →
    s.env = .line (w :: m.bytes ++ rest) →
    exec .initDevice s = .next (State.returned
      { s with
        session := .active, csOut := true, st := m.st, hi := m.hi, lo := m.lo, idr := m.ident, env := .line rest
        trace := s.trace ++ [.pinmodeOut s.csId, .busStart, .cs .high] ++ frameCycle s .wakeCmd [w] ++ m.events s } (.bit false))

/-- `readDeviceId` and the wire command `ID_READ`: a gate, then one frame; the identifier is the second and third byte received, the
first of them high (44_lifecycle.md R216; 30_encoding.md R112). -/
def Obligations.ReadDeviceId : Prop :=
  ∀ (s : State) (m : Sample) (rest : List Byte), s.Ready → busyBit m.st = false → s.env = .line (m.bytes ++ rest) →
    let t : State := { s with
      st := m.st, hi := m.hi, lo := m.lo, idr := m.hi ++ m.lo, env := .line rest, trace := s.trace ++ m.events s }
    exec .readDeviceId s = .next (t.returned (.ident (m.hi ++ m.lo))) ∧ exec .idRead s = .next (t.returned (.ident (m.hi ++ m.lo)))

/-- `readUniqueId` and the wire command `UID_READ`: a gate, then one frame of 13 transfers whose last eight received bytes are stored in
`UID` in arrival order (R217; 30_encoding.md R113). -/
def Obligations.ReadUniqueId : Prop :=
  ∀ (s : State) (x st : Byte) (head rest : List Byte) (uid : Vector Byte 8), s.Ready → busyBit st = false → head.length = 5 →
    s.env = .line (x :: st :: head ++ uid.toList ++ rest) →
    let t : State := { s with
      st := st, uid := uid, uidValid := true, env := .line rest
      trace := s.trace ++ gated s x st .uidRead (head ++ uid.toList) }
    exec .readUniqueId s = .next (t.returned (.uid uid)) ∧ exec .uidRead s = .next (t.returned (.uid uid))

/-- `found` with ten good samples, all equal: true after exactly ten identifier reads (R218). -/
def Obligations.FoundTrue : Prop :=
  ∀ (s : State) (w : Byte) (samples : List Sample) (last : Sample) (rest : List Byte), s.Ready → samples.length = 10 →
    samples.getLast? = some last → (∀ m ∈ samples, busyBit m.st = false ∧ m.ident = last.ident) →
    last.ident ≠ 0x0000 → last.ident ≠ 0xFFFF → s.env = .line (w :: samples.flatMap Sample.bytes ++ rest) →
    exec .found s = .next (State.returned
      { s with
        st := last.st, hi := last.hi, lo := last.lo, idr := last.ident, first := last.ident, cnt := 10, env := .line rest
        trace := s.trace ++ frameCycle s .wakeCmd [w] ++ samples.flatMap (Sample.events s) } (.bit true))

/-- `found` stops at the first sample that is zero, all ones, or different from the first sample, and answers false (R218). -/
def Obligations.FoundFalse : Prop :=
  ∀ (s : State) (w : Byte) (good : List Sample) (bad : Sample) (rest : List Byte), s.Ready → good.length < 10 →
    let first := (good.headD bad).ident
    (∀ m ∈ good, busyBit m.st = false ∧ m.ident = first ∧ m.ident ≠ 0x0000 ∧ m.ident ≠ 0xFFFF) →
    busyBit bad.st = false → (bad.ident = 0x0000 ∨ bad.ident = 0xFFFF ∨ bad.ident ≠ first) →
    s.env = .line (w :: (good ++ [bad]).flatMap Sample.bytes ++ rest) →
    exec .found s = .next (State.returned
      { s with
        st := bad.st, hi := bad.hi, lo := bad.lo, idr := bad.ident, first := first, cnt := BitVec.ofNat 4 (good.length + 1)
        env := .line rest
        trace := s.trace ++ frameCycle s .wakeCmd [w] ++ (good ++ [bad]).flatMap (Sample.events s) } (.bit false))

/-- `sleep` and its wire command: a gated single-byte command (R219; 30_encoding.md R114). -/
def Obligations.Sleep : Prop :=
  ∀ (s : State) (x st r : Byte) (rest : List Byte), s.Ready → busyBit st = false → s.env = .line (x :: st :: r :: rest) →
    let t : State := { s with st := st, env := .line rest, trace := s.trace ++ gated s x st .sleepCmd [r] }
    exec .sleep s = .next (t.returned .done) ∧ exec .sleepCmd s = .next (t.returned .done)

/-- `wakeup` (R220): one single-byte command with no poll before it, in any environment, so it can never block; no register written
but those of the bus. -/
def Obligations.Wakeup : Prop :=
  ∀ s : State, s.Ready →
    (∃ r e d, exec .wakeup s = .next (State.returned
      { s with env := e, draws := d, trace := s.trace ++ frameCycle s .wakeCmd [r] } .done)) ∧
    ∀ r rest, s.env = .line (r :: rest) → exec .wakeup s = .next (State.returned
      { s with env := .line rest, trace := s.trace ++ frameCycle s .wakeCmd [r] } .done)

/-- The two wire commands with no gate, by themselves: `STATUS_READ` is one status poll (30_encoding.md R109), `WAKE` a single-byte command
with no poll before it (R115). -/
def Obligations.UngatedCommands : Prop :=
  ∀ s : State, s.Ready →
    (∀ x st rest, s.env = .line (x :: st :: rest) → exec .statusRead s = .next (State.returned
      { s with st := st, env := .line rest, trace := s.trace ++ pollCycle s x st } (.byte st))) ∧
    ∀ r rest, s.env = .line (r :: rest) → exec .wakeCmd s = .next (State.returned
      { s with env := .line rest, trace := s.trace ++ frameCycle s .wakeCmd [r] } .done)

/-- `end` releases the bus session and nothing else, in any environment (R222). -/
def Obligations.EndSession : Prop :=
  ∀ s : State, s.Ready →
    exec .endSession s = .next
      { s with
        session := .ended, trace := s.trace ++ [.busStop], result := some .done, latch := none, control := [] }

/-- The host's read of `UID` (R221): at an idle block, in any session state, the register; while an operation runs, nothing. -/
def Obligations.HostReadsUid : Prop :=
  ∀ s : State, (s.control = [] → s.hostReadUid = some s.uid) ∧ (s.control ≠ [] → s.hostReadUid = none)

/-! ## Reset and invariants -/

/-- What construction leaves (10_state.md R36): the construction arguments, `SESSION` constructed, the flags false, idle, the latch
empty, no event emitted. The parameters' default values are the model's (assumption log 5). -/
def Obligations.ResetValues : Prop :=
  State.reset.csId = Config.csId ∧ State.reset.busCfg = Config.busCfg ∧ State.reset.expectedId = Config.expectedId ∧
  State.reset.session = .constructed ∧ State.reset.busHeld = false ∧ State.reset.csOut = false ∧
  State.reset.uidValid = false ∧ State.reset.control = [] ∧ State.reset.latch = none ∧ State.reset.trace = [] ∧
  State.reset.params.wf

/-- The invariants hold at reset: the bus trace and the registers agree, the two memories are in canonical form, no micro-operation is
pending, and no frame has been sent. -/
def Obligations.InvReset : Prop :=
  State.reset.Inv ∧ State.reset.MemInv ∧ State.reset.OnProgram ∧ State.reset.FramesInv

/-- Every step keeps the invariant: the bus trace is a well-formed life (60_exceptions.md R267), the lifecycle and bus registers agree
with it, and at an idle block the bus is released and the chip deselected (10_state.md R37). And the control position is idle or a gate
in the program of the latched operation (R30, R31), whatever the trace; that a step ends at a gate is the model's choice (assumption
log 1). -/
def Obligations.InvStep : Prop :=
  (∀ s t : State, s.Inv → step s = .next t → t.Inv) ∧ ∀ s t : State, s.OnProgram → step s = .next t → t.OnProgram

/-- What the invariant says of an idle block (R37): the bus is not held, and a session that has been started has the line high. -/
def Obligations.IdleReleased : Prop :=
  ∀ s : State, s.Inv → s.control = [] →
    s.busHeld = false ∧ (s.session ≠ .constructed → s.csLevel = .high ∧ s.csOut = true) ∧ s.latch = none

/-- Every step keeps both memories in canonical form, a chip's size in its range (00_scope.md R10), and bits 1 and 0 of the reference chip's
protection bits zero (95_test_vectors.md section 0, assumption log 10). -/
def Obligations.MemInvStep : Prop := ∀ s t : State, s.MemInv → step s = .next t → t.MemInv

/-- The parameters and the configuration registers are constants of the instance (00_scope.md R9; 10_state.md R21 to R23), and the bus
trace only grows (20_memory.md R71). A chip keeps its size and its factory-programmed identifiers (00_scope.md R10; 20_memory.md R86,
R87). -/
def Obligations.ConfigConstant : Prop :=
  ∀ s t : State, step s = .next t →
    t.params = s.params ∧ t.csId = s.csId ∧ t.busCfg = s.busCfg ∧ t.expectedId = s.expectedId ∧ s.trace <+: t.trace ∧
      t.env.constants? = s.env.constants?

/-- `SESSION` never goes back, and an ended instance emits nothing more, ever (60_exceptions.md R253, R266). -/
def Obligations.SessionOrder : Prop :=
  ∀ s t : State, s.Inv → step s = .next t →
    (s.session = .active → t.session ≠ .constructed) ∧ (s.session = .ended → t.session = .ended ∧ t.trace = s.trace)

/-- `UID` and `UID_VALID` are written by the unique-identifier read only, the host's memory by the streaming read only and by that only
within its own buffer (20_memory.md R68; 44_lifecycle.md R217; 41_read.md R171): by `exec`, and by every step, the later steps of an
operation that has waited at its gates included. -/
def Obligations.UidAndBufferWriters : Prop :=
  (∀ (i : Instr) (s t : State), exec i s = .next t → UidAndBufferKept i s t) ∧
  ∀ (s t : State) (i : Instr), s.OnProgram → s.running? = some i → step s = .next t → UidAndBufferKept i s t

/-- Which operations write each working register (10_state.md R29, the operation rules of files 40 to 44), by `exec` and by every step of
theirs: `REM`, `OFF`, `CAP`, `N` only `writeBytes`; `FIRST`, `CNT` only `found`; `ALL_FF` only `regionIsEmpty`; `IDR` only the identifier
reads; `CS_OUT` only bring-up; `A` only the operations with an address; `ST` not `wakeup` and not `end`. That a
register no operation has written keeps its value between operations is the model's choice (assumption log 24). -/
def Obligations.RegisterWriters : Prop :=
  (∀ (i : Instr) (s t : State), exec i s = .next t → RegistersKept i s t) ∧
  ∀ (s t : State) (i : Instr), s.OnProgram → s.running? = some i → step s = .next t → RegistersKept i s t

/-- Every frame the block sends is the frame of a well-formed wire command (30_encoding.md R119; 60_exceptions.md R267), whatever the
environment answers. Every step keeps it so, the later steps of an operation that has waited included: if every frame of the trace
decodes and what is still to run sends only frames that decode, then the same holds after the step. And whatever the trace was before,
`exec` of a well-formed instruction adds only frames that decode. -/
def Obligations.FramesWellFormed : Prop :=
  (∀ s t : State, s.FramesInv → step s = .next t → t.FramesInv) ∧
  ∀ (i : Instr) (s t : State), s.control = [] → s.params.wf → i.wf s.params = true → exec i s = .next t →
    ∃ events, t.trace = s.trace ++ events ∧ ∀ bytes ∈ sentFrames none events, isFrame s.params bytes

/-! ## Composite operations (30_encoding.md R124) -/

/-- Composite operations have the bus traces of what they are composed of, in any environment: `writeBytes` of one byte that of
`writeByte`; `regionIsEmpty` that of `readBytes`, whatever it reads (R124). -/
def Obligations.CompositeTraces : Prop :=
  (∀ (s t u : State) (addr : Addr) (buf : BufRef), s.Ready → exec (.writeBytes addr ⟨buf, 1⟩) s = .next t →
    exec (.writeByte addr (Memory.read s.hostMem buf)) s = .next u → t.trace = u.trace ∧ t.env = u.env ∧ t.result = u.result) ∧
  ∀ (s t u : State) (addr : Addr) (buf : BufRef) (len : Byte), s.Ready → exec (.regionIsEmpty addr len) s = .next t →
    exec (.readBytes addr ⟨buf, len.toNat⟩) s = .next u → t.trace = u.trace ∧ t.env = u.env ∧ t.st = u.st

/-! ## With a chip (20_memory.md R76 to R88; the reference chip of 95_test_vectors.md section 0 where they are silent) -/

/-- On a reference chip that takes no time for a program or erase, every operation that `SESSION` allows returns. -/
def Obligations.PromptReturns : Prop :=
  ∀ (i : Instr) (s : State) (c : Chip), s.control = [] → s.params.opcodes.distinct → s.env = .chip c → c.Prompt →
    (s.session = .constructed ∧ i = .initDevice) ∨ (s.session = .active ∧ i ≠ .initDevice) →
    ∃ t, exec i s = .next t ∧ t.control = [] ∧ t.latch = none ∧ t.result.isSome = true

/-- `readByte` on a prompt reference chip returns the byte of the flash array at its address and changes nothing in the array (R80). -/
def Obligations.ChipReadByte : Prop :=
  ∀ (s : State) (c : Chip) (addr : Addr), s.Ready → s.env = .chip c → c.Prompt →
    ∃ t, exec (.readByte addr) s = .next t ∧ t.control = [] ∧ t.result = some (.byte (Memory.read c.mem addr.toNat)) ∧ t.flash = c.mem

/-- `writeByte` on a prompt reference chip with no protection stores the bitwise AND of the old byte and the new one, and changes no
other byte (R77). -/
def Obligations.ChipWriteByte : Prop :=
  ∀ (s : State) (c : Chip) (addr : Addr) (value : Byte), s.Ready → s.env = .chip c → c.Prompt → c.prot = 0 → Memory.wf c.mem →
    ∃ t, exec (.writeByte addr value) s = .next t ∧ t.control = [] ∧
      ∀ x, Memory.read t.flash x =
        if x = addr.toNat then Memory.read c.mem x &&& value else Memory.read c.mem x

/-- `eraseBlock4K` on a prompt reference chip with no protection, at a block's start: every byte of the block reads 0xFF, every other
byte as before (R82). -/
def Obligations.ChipEraseBlock4K : Prop :=
  ∀ (s : State) (c : Chip) (addr : Addr), s.Ready → s.env = .chip c → c.Prompt → c.prot = 0 → Memory.wf c.mem →
    addr.toNat % 4096 = 0 →
    ∃ t, exec (.eraseBlock4K addr) s = .next t ∧ t.control = [] ∧
      ∀ x, Memory.read t.flash x =
        if addr.toNat ≤ x ∧ x < addr.toNat + 4096 then 0xFF else Memory.read c.mem x

/-- The operations that are no program, erase or status write leave the flash array of a reference chip as it was, whatever the chip's
state, in `exec` and in every step of theirs (20_memory.md R60, R68; the reference chip is assumption log 10). -/
def Obligations.ReadsKeepFlash : Prop :=
  (∀ (i : Instr) (s t : State) (c : Chip), s.params.opcodes.distinct → s.env = .chip c → c.gaps = .reference →
    changesChip i = false → exec i s = .next t → t.flash = c.mem) ∧
  ∀ (i : Instr) (s t : State) (c : Chip), s.params.opcodes.distinct → s.env = .chip c → c.gaps = .reference →
    changesChip i = false → s.OnProgram → s.running? = some i → step s = .next t → t.flash = c.mem
end

