-- ==== Sys2Proof/Laws/Memory.lean ====
section
/-! SUPPORT. The laws of memory: a read after a write, what a write leaves alone, and that every memory operation keeps the canonical
form. -/

namespace Sys2Proof.Machine

@[simp] theorem Memory.read_nil (a : Nat) : Memory.read [] a = Memory.blank := rfl

/-- An address below every listed one reads blank. -/
theorem Memory.read_of_lt (m : Memory) (a : Nat) (h : ∀ c ∈ m, a < c.1) : Memory.read m a = Memory.blank := by
  cases m with
  | nil => rfl
  | cons c rest =>
    obtain ⟨x, w⟩ := c
    have hx : a < x := h (x, w) (by simp)
    simp [Memory.read, Nat.ne_of_lt hx, hx]

/-- What a cell at the head of a canonical memory says about the rest. -/
theorem Memory.wf_cons {c : Host.Cell} {m : Memory} :
    Memory.wf (c :: m) ↔ (∀ d ∈ m, c.1 < d.1) ∧ c.2 ≠ Memory.blank ∧ Memory.wf m := by
  simp only [Memory.wf, List.pairwise_cons, List.mem_cons, forall_eq_or_imp]
  tauto

theorem Memory.wf_nil : Memory.wf [] := by simp [Memory.wf]

/-- A write lists no address but its own and those listed before. -/
theorem Memory.mem_write {m : Memory} {a : Nat} {b : Byte} {c : Host.Cell} (h : c ∈ Memory.write m a b) :
    c = (a, b) ∧ b ≠ Memory.blank ∨ c ∈ m := by
  induction m with
  | nil =>
    simp only [Memory.write] at h
    split at h <;> simp_all
  | cons d rest ih =>
    obtain ⟨x, w⟩ := d
    simp only [Memory.write] at h
    split_ifs at h <;> simp_all
    all_goals tauto

/-- A write keeps the canonical form. -/
theorem Memory.write_wf {m : Memory} (h : Memory.wf m) (a : Nat) (b : Byte) : Memory.wf (Memory.write m a b) := by
  induction m with
  | nil =>
    simp only [Memory.write]
    split <;> simp_all [Memory.wf]
  | cons c rest ih =>
    obtain ⟨x, w⟩ := c
    obtain ⟨hlt, hw, hr⟩ := Memory.wf_cons.mp h
    simp only [Memory.write]
    split_ifs with h1 h2 h3 h4
    · exact h
    · refine Memory.wf_cons.mpr ⟨?_, h2, h⟩
      intro d hd
      rcases List.mem_cons.mp hd with rfl | hd
      · exact h1
      · exact h1.trans (hlt d hd)
    · exact hr
    · subst h3
      exact Memory.wf_cons.mpr ⟨hlt, h4, hr⟩
    · refine Memory.wf_cons.mpr ⟨?_, hw, ih hr⟩
      intro d hd
      rcases Memory.mem_write hd with ⟨rfl, _⟩ | hd
      · dsimp only; omega
      · exact hlt d hd

/-- A read after a write: the byte written at its address, the old byte elsewhere. -/
theorem Memory.read_write {m : Memory} (h : Memory.wf m) (a x : Nat) (b : Byte) :
    Memory.read (Memory.write m a b) x = if x = a then b else Memory.read m x := by
  induction m with
  | nil =>
    by_cases hb : b = Memory.blank <;> by_cases hx : x = a <;> simp_all [Memory.write, Memory.read]
  | cons c rest ih =>
    obtain ⟨y, w⟩ := c
    obtain ⟨hlt, hw, hr⟩ := Memory.wf_cons.mp h
    simp only at hlt hw
    by_cases h1 : a < y
    · by_cases hb : b = Memory.blank
      · subst hb
        simp only [Memory.write, h1, if_true]
        split
        · subst x
          exact Memory.read_of_lt _ _ (by
            intro d hd
            rcases List.mem_cons.mp hd with rfl | hd
            · exact h1
            · exact h1.trans (hlt d hd))
        · rfl
      · simp only [Memory.write, h1, if_true, hb, if_false, Memory.read]
        split_ifs <;> first | rfl | omega
    · by_cases h2 : a = y
      · subst h2
        by_cases hb : b = Memory.blank
        · subst hb
          simp only [Memory.write, lt_irrefl, if_false, if_true, Memory.read]
          split_ifs with hx hx'
          · subst hx
            exact Memory.read_of_lt _ _ hlt
          · exact Memory.read_of_lt _ _ fun d hd => hx'.trans (hlt d hd)
          · rfl
        · simp only [Memory.write, lt_irrefl, if_false, if_true, hb, Memory.read]
          split_ifs <;> rfl
      · simp only [Memory.write, h1, if_false, h2, Memory.read]
        rw [ih hr]
        split_ifs <;> first | rfl | omega

@[simp] theorem Memory.read_write_same {m : Memory} (h : Memory.wf m) (a : Nat) (b : Byte) :
    Memory.read (Memory.write m a b) a = b := by
  simp [Memory.read_write h]

theorem Memory.read_write_other {m : Memory} (h : Memory.wf m) {a x : Nat} (b : Byte) (hx : x ≠ a) :
    Memory.read (Memory.write m a b) x = Memory.read m x := by
  simp [Memory.read_write h, hx]

/-- An erase keeps the canonical form. -/
theorem Memory.eraseRange_wf {m : Memory} (h : Memory.wf m) (lo size : Nat) :
    Memory.wf (Memory.eraseRange m lo size) :=
  ⟨h.1.filter _, fun c hc => h.2 c (List.mem_filter.mp hc).1⟩

/-- A read after an erase: blank in the range, the old byte elsewhere. -/
theorem Memory.read_eraseRange {m : Memory} (h : Memory.wf m) (lo size x : Nat) :
    Memory.read (Memory.eraseRange m lo size) x =
      if lo ≤ x ∧ x < lo + size then Memory.blank else Memory.read m x := by
  induction m with
  | nil => simp [Memory.eraseRange]
  | cons c rest ih =>
    obtain ⟨y, w⟩ := c
    obtain ⟨hlt, hw, hr⟩ := Memory.wf_cons.mp h
    simp only at hlt hw
    have ih := ih hr
    by_cases hy : y < lo ∨ lo + size ≤ y
    · have he : Memory.eraseRange ((y, w) :: rest) lo size = (y, w) :: Memory.eraseRange rest lo size := by
        simp [Memory.eraseRange, hy]
      rw [he]
      simp only [Memory.read]
      split_ifs with h1 h2 h3 h4 h5 <;> first | rfl | omega | simp_all
    · have he : Memory.eraseRange ((y, w) :: rest) lo size = Memory.eraseRange rest lo size := by
        simp only [Memory.eraseRange, List.filter_cons, decide_eq_true_eq, hy, if_false]
      rw [he, ih]
      simp only [Memory.read]
      split_ifs with h1 h2 h3 <;> first | rfl | omega | skip
      exact Memory.read_of_lt _ _ fun d hd => h3.trans (hlt d hd)

/-- The memory made from any list of cells is canonical. -/
theorem Memory.ofCells_wf (cells : List Host.Cell) : Memory.wf (Memory.ofCells cells) := by
  suffices h : ∀ (m : Memory), Memory.wf m → Memory.wf (cells.foldl (fun m c => Memory.write m c.1 c.2) m) from
    h [] Memory.wf_nil
  induction cells with
  | nil => exact fun m hm => hm
  | cons c rest ih => exact fun m hm => ih _ (Memory.write_wf hm _ _)

end Sys2Proof.Machine
end

