-- ==== Sys2Proof/Laws/State.lean ====
section
/-! SUPPORT. One lemma per field per named update of State: what each update leaves alone and what it sets. -/

namespace Sys2Proof.Machine

/-! ## emit -/

@[simp] theorem State.emit_params (s : State) (e : Event) : (s.emit e).params = s.params := rfl
@[simp] theorem State.emit_csId (s : State) (e : Event) : (s.emit e).csId = s.csId := rfl
@[simp] theorem State.emit_busCfg (s : State) (e : Event) : (s.emit e).busCfg = s.busCfg := rfl
@[simp] theorem State.emit_expectedId (s : State) (e : Event) : (s.emit e).expectedId = s.expectedId := rfl
@[simp] theorem State.emit_session (s : State) (e : Event) : (s.emit e).session = s.session := rfl
@[simp] theorem State.emit_busHeld (s : State) (e : Event) : (s.emit e).busHeld = s.busHeld := rfl
@[simp] theorem State.emit_csOut (s : State) (e : Event) : (s.emit e).csOut = s.csOut := rfl
@[simp] theorem State.emit_csLevel (s : State) (e : Event) : (s.emit e).csLevel = s.csLevel := rfl
@[simp] theorem State.emit_uid (s : State) (e : Event) : (s.emit e).uid = s.uid := rfl
@[simp] theorem State.emit_uidValid (s : State) (e : Event) : (s.emit e).uidValid = s.uidValid := rfl
@[simp] theorem State.emit_a (s : State) (e : Event) : (s.emit e).a = s.a := rfl
@[simp] theorem State.emit_rem (s : State) (e : Event) : (s.emit e).rem = s.rem := rfl
@[simp] theorem State.emit_off (s : State) (e : Event) : (s.emit e).off = s.off := rfl
@[simp] theorem State.emit_cap (s : State) (e : Event) : (s.emit e).cap = s.cap := rfl
@[simp] theorem State.emit_n (s : State) (e : Event) : (s.emit e).n = s.n := rfl
@[simp] theorem State.emit_st (s : State) (e : Event) : (s.emit e).st = s.st := rfl
@[simp] theorem State.emit_idr (s : State) (e : Event) : (s.emit e).idr = s.idr := rfl
@[simp] theorem State.emit_first (s : State) (e : Event) : (s.emit e).first = s.first := rfl
@[simp] theorem State.emit_cnt (s : State) (e : Event) : (s.emit e).cnt = s.cnt := rfl
@[simp] theorem State.emit_allFF (s : State) (e : Event) : (s.emit e).allFF = s.allFF := rfl
@[simp] theorem State.emit_v (s : State) (e : Event) : (s.emit e).v = s.v := rfl
@[simp] theorem State.emit_hi (s : State) (e : Event) : (s.emit e).hi = s.hi := rfl
@[simp] theorem State.emit_lo (s : State) (e : Event) : (s.emit e).lo = s.lo := rfl
@[simp] theorem State.emit_control (s : State) (e : Event) : (s.emit e).control = s.control := rfl
@[simp] theorem State.emit_latch (s : State) (e : Event) : (s.emit e).latch = s.latch := rfl
@[simp] theorem State.emit_requests (s : State) (e : Event) : (s.emit e).requests = s.requests := rfl
@[simp] theorem State.emit_result (s : State) (e : Event) : (s.emit e).result = s.result := rfl
@[simp] theorem State.emit_hostMem (s : State) (e : Event) : (s.emit e).hostMem = s.hostMem := rfl
@[simp] theorem State.emit_trace (s : State) (e : Event) : (s.emit e).trace = s.trace ++ [e] := rfl
@[simp] theorem State.emit_env (s : State) (e : Event) : (s.emit e).env = s.env := rfl
@[simp] theorem State.emit_draws (s : State) (e : Event) : (s.emit e).draws = s.draws := rfl

/-! ## exchange -/

@[simp] theorem State.exchange_fst (s : State) (b : Byte) : (s.exchange b).1 = (s.env.reply s.params.opcodes s.draws b).1 := rfl
@[simp] theorem State.exchange_params (s : State) (b : Byte) : (s.exchange b).2.params = s.params := rfl
@[simp] theorem State.exchange_csId (s : State) (b : Byte) : (s.exchange b).2.csId = s.csId := rfl
@[simp] theorem State.exchange_busCfg (s : State) (b : Byte) : (s.exchange b).2.busCfg = s.busCfg := rfl
@[simp] theorem State.exchange_expectedId (s : State) (b : Byte) : (s.exchange b).2.expectedId = s.expectedId := rfl
@[simp] theorem State.exchange_session (s : State) (b : Byte) : (s.exchange b).2.session = s.session := rfl
@[simp] theorem State.exchange_busHeld (s : State) (b : Byte) : (s.exchange b).2.busHeld = s.busHeld := rfl
@[simp] theorem State.exchange_csOut (s : State) (b : Byte) : (s.exchange b).2.csOut = s.csOut := rfl
@[simp] theorem State.exchange_csLevel (s : State) (b : Byte) : (s.exchange b).2.csLevel = s.csLevel := rfl
@[simp] theorem State.exchange_uid (s : State) (b : Byte) : (s.exchange b).2.uid = s.uid := rfl
@[simp] theorem State.exchange_uidValid (s : State) (b : Byte) : (s.exchange b).2.uidValid = s.uidValid := rfl
@[simp] theorem State.exchange_a (s : State) (b : Byte) : (s.exchange b).2.a = s.a := rfl
@[simp] theorem State.exchange_rem (s : State) (b : Byte) : (s.exchange b).2.rem = s.rem := rfl
@[simp] theorem State.exchange_off (s : State) (b : Byte) : (s.exchange b).2.off = s.off := rfl
@[simp] theorem State.exchange_cap (s : State) (b : Byte) : (s.exchange b).2.cap = s.cap := rfl
@[simp] theorem State.exchange_n (s : State) (b : Byte) : (s.exchange b).2.n = s.n := rfl
@[simp] theorem State.exchange_st (s : State) (b : Byte) : (s.exchange b).2.st = s.st := rfl
@[simp] theorem State.exchange_idr (s : State) (b : Byte) : (s.exchange b).2.idr = s.idr := rfl
@[simp] theorem State.exchange_first (s : State) (b : Byte) : (s.exchange b).2.first = s.first := rfl
@[simp] theorem State.exchange_cnt (s : State) (b : Byte) : (s.exchange b).2.cnt = s.cnt := rfl
@[simp] theorem State.exchange_allFF (s : State) (b : Byte) : (s.exchange b).2.allFF = s.allFF := rfl
@[simp] theorem State.exchange_v (s : State) (b : Byte) : (s.exchange b).2.v = s.v := rfl
@[simp] theorem State.exchange_hi (s : State) (b : Byte) : (s.exchange b).2.hi = s.hi := rfl
@[simp] theorem State.exchange_lo (s : State) (b : Byte) : (s.exchange b).2.lo = s.lo := rfl
@[simp] theorem State.exchange_control (s : State) (b : Byte) : (s.exchange b).2.control = s.control := rfl
@[simp] theorem State.exchange_latch (s : State) (b : Byte) : (s.exchange b).2.latch = s.latch := rfl
@[simp] theorem State.exchange_requests (s : State) (b : Byte) : (s.exchange b).2.requests = s.requests := rfl
@[simp] theorem State.exchange_result (s : State) (b : Byte) : (s.exchange b).2.result = s.result := rfl
@[simp] theorem State.exchange_hostMem (s : State) (b : Byte) : (s.exchange b).2.hostMem = s.hostMem := rfl
@[simp] theorem State.exchange_trace (s : State) (b : Byte) : (s.exchange b).2.trace = s.trace ++ [.xfer b (s.env.reply s.params.opcodes s.draws b).1] := rfl
@[simp] theorem State.exchange_env (s : State) (b : Byte) : (s.exchange b).2.env = (s.env.reply s.params.opcodes s.draws b).2.1 := rfl
@[simp] theorem State.exchange_draws (s : State) (b : Byte) : (s.exchange b).2.draws = (s.env.reply s.params.opcodes s.draws b).2.2 := rfl

/-! ## driveLow -/

@[simp] theorem State.driveLow_params (s : State) : s.driveLow.params = s.params := rfl
@[simp] theorem State.driveLow_csId (s : State) : s.driveLow.csId = s.csId := rfl
@[simp] theorem State.driveLow_busCfg (s : State) : s.driveLow.busCfg = s.busCfg := rfl
@[simp] theorem State.driveLow_expectedId (s : State) : s.driveLow.expectedId = s.expectedId := rfl
@[simp] theorem State.driveLow_session (s : State) : s.driveLow.session = s.session := rfl
@[simp] theorem State.driveLow_busHeld (s : State) : s.driveLow.busHeld = s.busHeld := rfl
@[simp] theorem State.driveLow_csOut (s : State) : s.driveLow.csOut = s.csOut := rfl
@[simp] theorem State.driveLow_csLevel (s : State) : s.driveLow.csLevel = .low := rfl
@[simp] theorem State.driveLow_uid (s : State) : s.driveLow.uid = s.uid := rfl
@[simp] theorem State.driveLow_uidValid (s : State) : s.driveLow.uidValid = s.uidValid := rfl
@[simp] theorem State.driveLow_a (s : State) : s.driveLow.a = s.a := rfl
@[simp] theorem State.driveLow_rem (s : State) : s.driveLow.rem = s.rem := rfl
@[simp] theorem State.driveLow_off (s : State) : s.driveLow.off = s.off := rfl
@[simp] theorem State.driveLow_cap (s : State) : s.driveLow.cap = s.cap := rfl
@[simp] theorem State.driveLow_n (s : State) : s.driveLow.n = s.n := rfl
@[simp] theorem State.driveLow_st (s : State) : s.driveLow.st = s.st := rfl
@[simp] theorem State.driveLow_idr (s : State) : s.driveLow.idr = s.idr := rfl
@[simp] theorem State.driveLow_first (s : State) : s.driveLow.first = s.first := rfl
@[simp] theorem State.driveLow_cnt (s : State) : s.driveLow.cnt = s.cnt := rfl
@[simp] theorem State.driveLow_allFF (s : State) : s.driveLow.allFF = s.allFF := rfl
@[simp] theorem State.driveLow_v (s : State) : s.driveLow.v = s.v := rfl
@[simp] theorem State.driveLow_hi (s : State) : s.driveLow.hi = s.hi := rfl
@[simp] theorem State.driveLow_lo (s : State) : s.driveLow.lo = s.lo := rfl
@[simp] theorem State.driveLow_control (s : State) : s.driveLow.control = s.control := rfl
@[simp] theorem State.driveLow_latch (s : State) : s.driveLow.latch = s.latch := rfl
@[simp] theorem State.driveLow_requests (s : State) : s.driveLow.requests = s.requests := rfl
@[simp] theorem State.driveLow_result (s : State) : s.driveLow.result = s.result := rfl
@[simp] theorem State.driveLow_hostMem (s : State) : s.driveLow.hostMem = s.hostMem := rfl
@[simp] theorem State.driveLow_trace (s : State) : s.driveLow.trace = s.trace ++ [.cs .low] := rfl
@[simp] theorem State.driveLow_env (s : State) : s.driveLow.env = s.env.select := rfl
@[simp] theorem State.driveLow_draws (s : State) : s.driveLow.draws = s.draws := rfl

/-! ## driveHigh -/

@[simp] theorem State.driveHigh_params (s : State) : s.driveHigh.params = s.params := rfl
@[simp] theorem State.driveHigh_csId (s : State) : s.driveHigh.csId = s.csId := rfl
@[simp] theorem State.driveHigh_busCfg (s : State) : s.driveHigh.busCfg = s.busCfg := rfl
@[simp] theorem State.driveHigh_expectedId (s : State) : s.driveHigh.expectedId = s.expectedId := rfl
@[simp] theorem State.driveHigh_session (s : State) : s.driveHigh.session = s.session := rfl
@[simp] theorem State.driveHigh_busHeld (s : State) : s.driveHigh.busHeld = s.busHeld := rfl
@[simp] theorem State.driveHigh_csOut (s : State) : s.driveHigh.csOut = s.csOut := rfl
@[simp] theorem State.driveHigh_csLevel (s : State) : s.driveHigh.csLevel = .high := rfl
@[simp] theorem State.driveHigh_uid (s : State) : s.driveHigh.uid = s.uid := rfl
@[simp] theorem State.driveHigh_uidValid (s : State) : s.driveHigh.uidValid = s.uidValid := rfl
@[simp] theorem State.driveHigh_a (s : State) : s.driveHigh.a = s.a := rfl
@[simp] theorem State.driveHigh_rem (s : State) : s.driveHigh.rem = s.rem := rfl
@[simp] theorem State.driveHigh_off (s : State) : s.driveHigh.off = s.off := rfl
@[simp] theorem State.driveHigh_cap (s : State) : s.driveHigh.cap = s.cap := rfl
@[simp] theorem State.driveHigh_n (s : State) : s.driveHigh.n = s.n := rfl
@[simp] theorem State.driveHigh_st (s : State) : s.driveHigh.st = s.st := rfl
@[simp] theorem State.driveHigh_idr (s : State) : s.driveHigh.idr = s.idr := rfl
@[simp] theorem State.driveHigh_first (s : State) : s.driveHigh.first = s.first := rfl
@[simp] theorem State.driveHigh_cnt (s : State) : s.driveHigh.cnt = s.cnt := rfl
@[simp] theorem State.driveHigh_allFF (s : State) : s.driveHigh.allFF = s.allFF := rfl
@[simp] theorem State.driveHigh_v (s : State) : s.driveHigh.v = s.v := rfl
@[simp] theorem State.driveHigh_hi (s : State) : s.driveHigh.hi = s.hi := rfl
@[simp] theorem State.driveHigh_lo (s : State) : s.driveHigh.lo = s.lo := rfl
@[simp] theorem State.driveHigh_control (s : State) : s.driveHigh.control = s.control := rfl
@[simp] theorem State.driveHigh_latch (s : State) : s.driveHigh.latch = s.latch := rfl
@[simp] theorem State.driveHigh_requests (s : State) : s.driveHigh.requests = s.requests := rfl
@[simp] theorem State.driveHigh_result (s : State) : s.driveHigh.result = s.result := rfl
@[simp] theorem State.driveHigh_hostMem (s : State) : s.driveHigh.hostMem = s.hostMem := rfl
@[simp] theorem State.driveHigh_trace (s : State) : s.driveHigh.trace = s.trace ++ [.cs .high] := rfl
@[simp] theorem State.driveHigh_env (s : State) : s.driveHigh.env = (s.env.deselect s.params.opcodes s.draws).1 := rfl
@[simp] theorem State.driveHigh_draws (s : State) : s.driveHigh.draws = (s.env.deselect s.params.opcodes s.draws).2 := rfl

/-! ## finish -/

@[simp] theorem State.finish_params (s : State) (r : Result) : (s.finish r).params = s.params := rfl
@[simp] theorem State.finish_csId (s : State) (r : Result) : (s.finish r).csId = s.csId := rfl
@[simp] theorem State.finish_busCfg (s : State) (r : Result) : (s.finish r).busCfg = s.busCfg := rfl
@[simp] theorem State.finish_expectedId (s : State) (r : Result) : (s.finish r).expectedId = s.expectedId := rfl
@[simp] theorem State.finish_session (s : State) (r : Result) : (s.finish r).session = s.session := rfl
@[simp] theorem State.finish_busHeld (s : State) (r : Result) : (s.finish r).busHeld = s.busHeld := rfl
@[simp] theorem State.finish_csOut (s : State) (r : Result) : (s.finish r).csOut = s.csOut := rfl
@[simp] theorem State.finish_csLevel (s : State) (r : Result) : (s.finish r).csLevel = s.csLevel := rfl
@[simp] theorem State.finish_uid (s : State) (r : Result) : (s.finish r).uid = s.uid := rfl
@[simp] theorem State.finish_uidValid (s : State) (r : Result) : (s.finish r).uidValid = s.uidValid := rfl
@[simp] theorem State.finish_a (s : State) (r : Result) : (s.finish r).a = s.a := rfl
@[simp] theorem State.finish_rem (s : State) (r : Result) : (s.finish r).rem = s.rem := rfl
@[simp] theorem State.finish_off (s : State) (r : Result) : (s.finish r).off = s.off := rfl
@[simp] theorem State.finish_cap (s : State) (r : Result) : (s.finish r).cap = s.cap := rfl
@[simp] theorem State.finish_n (s : State) (r : Result) : (s.finish r).n = s.n := rfl
@[simp] theorem State.finish_st (s : State) (r : Result) : (s.finish r).st = s.st := rfl
@[simp] theorem State.finish_idr (s : State) (r : Result) : (s.finish r).idr = s.idr := rfl
@[simp] theorem State.finish_first (s : State) (r : Result) : (s.finish r).first = s.first := rfl
@[simp] theorem State.finish_cnt (s : State) (r : Result) : (s.finish r).cnt = s.cnt := rfl
@[simp] theorem State.finish_allFF (s : State) (r : Result) : (s.finish r).allFF = s.allFF := rfl
@[simp] theorem State.finish_v (s : State) (r : Result) : (s.finish r).v = s.v := rfl
@[simp] theorem State.finish_hi (s : State) (r : Result) : (s.finish r).hi = s.hi := rfl
@[simp] theorem State.finish_lo (s : State) (r : Result) : (s.finish r).lo = s.lo := rfl
@[simp] theorem State.finish_control (s : State) (r : Result) : (s.finish r).control = s.control := rfl
@[simp] theorem State.finish_latch (s : State) (r : Result) : (s.finish r).latch = none := rfl
@[simp] theorem State.finish_requests (s : State) (r : Result) : (s.finish r).requests = s.requests := rfl
@[simp] theorem State.finish_result (s : State) (r : Result) : (s.finish r).result = some r := rfl
@[simp] theorem State.finish_hostMem (s : State) (r : Result) : (s.finish r).hostMem = s.hostMem := rfl
@[simp] theorem State.finish_trace (s : State) (r : Result) : (s.finish r).trace = s.trace := rfl
@[simp] theorem State.finish_env (s : State) (r : Result) : (s.finish r).env = s.env := rfl
@[simp] theorem State.finish_draws (s : State) (r : Result) : (s.finish r).draws = s.draws := rfl

/-! ## store: what no received byte changes -/

@[simp] theorem Keep.store_params (k : Keep) (r : Byte) (s : State) : (k.store r s).params = s.params := by cases k <;> rfl
@[simp] theorem Keep.store_csId (k : Keep) (r : Byte) (s : State) : (k.store r s).csId = s.csId := by cases k <;> rfl
@[simp] theorem Keep.store_busCfg (k : Keep) (r : Byte) (s : State) : (k.store r s).busCfg = s.busCfg := by cases k <;> rfl
@[simp] theorem Keep.store_expectedId (k : Keep) (r : Byte) (s : State) : (k.store r s).expectedId = s.expectedId := by cases k <;> rfl
@[simp] theorem Keep.store_session (k : Keep) (r : Byte) (s : State) : (k.store r s).session = s.session := by cases k <;> rfl
@[simp] theorem Keep.store_busHeld (k : Keep) (r : Byte) (s : State) : (k.store r s).busHeld = s.busHeld := by cases k <;> rfl
@[simp] theorem Keep.store_csOut (k : Keep) (r : Byte) (s : State) : (k.store r s).csOut = s.csOut := by cases k <;> rfl
@[simp] theorem Keep.store_csLevel (k : Keep) (r : Byte) (s : State) : (k.store r s).csLevel = s.csLevel := by cases k <;> rfl
@[simp] theorem Keep.store_uidValid (k : Keep) (r : Byte) (s : State) : (k.store r s).uidValid = s.uidValid := by cases k <;> rfl
@[simp] theorem Keep.store_a (k : Keep) (r : Byte) (s : State) : (k.store r s).a = s.a := by cases k <;> rfl
@[simp] theorem Keep.store_rem (k : Keep) (r : Byte) (s : State) : (k.store r s).rem = s.rem := by cases k <;> rfl
@[simp] theorem Keep.store_off (k : Keep) (r : Byte) (s : State) : (k.store r s).off = s.off := by cases k <;> rfl
@[simp] theorem Keep.store_cap (k : Keep) (r : Byte) (s : State) : (k.store r s).cap = s.cap := by cases k <;> rfl
@[simp] theorem Keep.store_n (k : Keep) (r : Byte) (s : State) : (k.store r s).n = s.n := by cases k <;> rfl
@[simp] theorem Keep.store_idr (k : Keep) (r : Byte) (s : State) : (k.store r s).idr = s.idr := by cases k <;> rfl
@[simp] theorem Keep.store_first (k : Keep) (r : Byte) (s : State) : (k.store r s).first = s.first := by cases k <;> rfl
@[simp] theorem Keep.store_cnt (k : Keep) (r : Byte) (s : State) : (k.store r s).cnt = s.cnt := by cases k <;> rfl
@[simp] theorem Keep.store_control (k : Keep) (r : Byte) (s : State) : (k.store r s).control = s.control := by cases k <;> rfl
@[simp] theorem Keep.store_latch (k : Keep) (r : Byte) (s : State) : (k.store r s).latch = s.latch := by cases k <;> rfl
@[simp] theorem Keep.store_requests (k : Keep) (r : Byte) (s : State) : (k.store r s).requests = s.requests := by cases k <;> rfl
@[simp] theorem Keep.store_result (k : Keep) (r : Byte) (s : State) : (k.store r s).result = s.result := by cases k <;> rfl
@[simp] theorem Keep.store_trace (k : Keep) (r : Byte) (s : State) : (k.store r s).trace = s.trace := by cases k <;> rfl
@[simp] theorem Keep.store_env (k : Keep) (r : Byte) (s : State) : (k.store r s).env = s.env := by cases k <;> rfl
@[simp] theorem Keep.store_draws (k : Keep) (r : Byte) (s : State) : (k.store r s).draws = s.draws := by cases k <;> rfl

/-! ## construct: the state after reset (10_state.md R36) -/

@[simp] theorem State.construct_params (p : Params) (cs : CsId) (cfg : BusCfg) (x : Ident) (e : Env) :
    (State.construct p cs cfg x e).params = p := rfl
@[simp] theorem State.construct_csId (p : Params) (cs : CsId) (cfg : BusCfg) (x : Ident) (e : Env) :
    (State.construct p cs cfg x e).csId = cs := rfl
@[simp] theorem State.construct_busCfg (p : Params) (cs : CsId) (cfg : BusCfg) (x : Ident) (e : Env) :
    (State.construct p cs cfg x e).busCfg = cfg := rfl
@[simp] theorem State.construct_expectedId (p : Params) (cs : CsId) (cfg : BusCfg) (x : Ident) (e : Env) :
    (State.construct p cs cfg x e).expectedId = x := rfl
@[simp] theorem State.construct_session (p : Params) (cs : CsId) (cfg : BusCfg) (x : Ident) (e : Env) :
    (State.construct p cs cfg x e).session = .constructed := rfl
@[simp] theorem State.construct_busHeld (p : Params) (cs : CsId) (cfg : BusCfg) (x : Ident) (e : Env) :
    (State.construct p cs cfg x e).busHeld = false := rfl
@[simp] theorem State.construct_csOut (p : Params) (cs : CsId) (cfg : BusCfg) (x : Ident) (e : Env) :
    (State.construct p cs cfg x e).csOut = false := rfl
@[simp] theorem State.construct_uidValid (p : Params) (cs : CsId) (cfg : BusCfg) (x : Ident) (e : Env) :
    (State.construct p cs cfg x e).uidValid = false := rfl
@[simp] theorem State.construct_control (p : Params) (cs : CsId) (cfg : BusCfg) (x : Ident) (e : Env) :
    (State.construct p cs cfg x e).control = [] := rfl
@[simp] theorem State.construct_latch (p : Params) (cs : CsId) (cfg : BusCfg) (x : Ident) (e : Env) :
    (State.construct p cs cfg x e).latch = none := rfl
@[simp] theorem State.construct_requests (p : Params) (cs : CsId) (cfg : BusCfg) (x : Ident) (e : Env) :
    (State.construct p cs cfg x e).requests = [] := rfl
@[simp] theorem State.construct_result (p : Params) (cs : CsId) (cfg : BusCfg) (x : Ident) (e : Env) :
    (State.construct p cs cfg x e).result = none := rfl
@[simp] theorem State.construct_hostMem (p : Params) (cs : CsId) (cfg : BusCfg) (x : Ident) (e : Env) :
    (State.construct p cs cfg x e).hostMem = [] := rfl
@[simp] theorem State.construct_trace (p : Params) (cs : CsId) (cfg : BusCfg) (x : Ident) (e : Env) :
    (State.construct p cs cfg x e).trace = [] := rfl
@[simp] theorem State.construct_env (p : Params) (cs : CsId) (cfg : BusCfg) (x : Ident) (e : Env) :
    (State.construct p cs cfg x e).env = e := rfl
@[simp] theorem State.construct_draws (p : Params) (cs : CsId) (cfg : BusCfg) (x : Ident) (e : Env) :
    (State.construct p cs cfg x e).draws = 0 := rfl

end Sys2Proof.Machine
end

