-- ==== Sys2Proof/Laws/Chip.lean ====
section
/-! SUPPORT. The chip: every one of its operations keeps its flash array in canonical form and its constants; a transfer never changes the
array; a reference chip's reaction outside the rules is no reaction. -/

namespace Sys2Proof.Machine

/-! ## The canonical form -/

theorem programBytes_wf (a k : Nat) (payload : List Byte) {m : Memory} (h : Memory.wf m) :
    Memory.wf (programBytes a k payload m) := by
  induction payload generalizing k m with
  | nil => exact h
  | cons d ds ih => exact ih (k + 1) (Memory.write_wf h _ _)

theorem Chip.scramble_wf (c : Chip) (draws : Nat) : Memory.wf (c.scramble draws).1.mem :=
  Memory.ofCells_wf _

theorem Chip.gapEffect_wf {c : Chip} (h : Memory.wf c.mem) (draws : Nat) : Memory.wf (c.gapEffect draws).1.mem := by
  unfold Chip.gapEffect
  split
  · exact h
  · exact c.scramble_wf draws

theorem Chip.start_mem (c : Chip) (draws k : Nat) : (c.start draws k).1.mem = c.mem := by
  unfold Chip.start
  split <;> rfl

/-- A refused program or erase leaves the array alone. -/
theorem Chip.refuse_mem (c : Chip) (draws : Nat) : (c.refuse draws).1.mem = c.mem := by
  unfold Chip.refuse
  split <;> rfl

theorem Chip.besideUnit_wf {c : Chip} (h : Memory.wf c.mem) (draws a size : Nat) : Memory.wf (c.besideUnit draws a size) := by
  unfold Chip.besideUnit
  split
  · exact Memory.ofCells_wf _
  · exact h

theorem Chip.armed_wf {c : Chip} (h : Memory.wf c.mem) (draws : Nat) {effect : Chip × Nat} (he : Memory.wf effect.1.mem) :
    Memory.wf (c.armed draws effect).1.mem := by
  unfold Chip.armed
  split
  · rw [refuse_mem]; exact h
  · split
    · exact gapEffect_wf h draws
    · exact he

theorem Chip.program_wf {c : Chip} (h : Memory.wf c.mem) (draws a : Nat) (payload : List Byte) :
    Memory.wf (c.program draws a payload).1.mem := by
  refine armed_wf h draws ?_
  split
  · exact c.scramble_wf draws
  · rw [start_mem]; exact programBytes_wf a 0 payload h

theorem Chip.eraseBlock_wf {c : Chip} (h : Memory.wf c.mem) (draws a size : Nat) :
    Memory.wf (c.eraseBlock draws a size).1.mem := by
  refine armed_wf h draws ?_
  split
  · exact c.scramble_wf draws
  · rw [start_mem]; exact Memory.eraseRange_wf (besideUnit_wf h _ _ _) _ _

theorem Chip.eraseAll_wf {c : Chip} (h : Memory.wf c.mem) (draws : Nat) : Memory.wf (c.eraseAll draws).1.mem := by
  refine armed_wf h draws ?_
  rw [start_mem]
  exact Memory.wf_nil

theorem Chip.writeStatus_wf {c : Chip} (h : Memory.wf c.mem) (draws : Nat) (v : Byte) :
    Memory.wf (c.writeStatus draws v).1.mem := by
  unfold Chip.writeStatus
  split
  · split <;> exact h
  · split
    · exact h
    · exact c.scramble_wf draws

theorem Chip.powerDown_mem (c : Chip) (draws : Nat) : (c.powerDown draws).1.mem = c.mem := by
  unfold Chip.powerDown
  split <;> rfl

theorem Chip.powerUp_mem (c : Chip) (draws : Nat) : (c.powerUp draws).1.mem = c.mem := by
  unfold Chip.powerUp
  split <;> rfl

theorem Chip.perform_wf {c : Chip} (h : Memory.wf c.mem) (draws : Nat) (w : Option Wire) (frame : List Byte) :
    Memory.wf (c.perform draws w frame).1.mem := by
  have hg := gapEffect_wf h draws
  cases w with
  | none => exact hg
  | some w =>
    cases w <;> simp only [Chip.perform] <;> first | exact h | (split <;> [skip; exact hg])
    · exact program_wf h _ _ _
    · exact eraseBlock_wf h _ _ _
    · exact eraseBlock_wf h _ _ _
    · exact eraseBlock_wf h _ _ _
    · exact eraseAll_wf h _
    · exact writeStatus_wf h _ _
    · exact h
    · rw [powerDown_mem]; exact h
    · rw [powerUp_mem]; exact h

theorem Chip.deselect_wf (o : Opcodes) {c : Chip} (h : Memory.wf c.mem) (draws : Nat) :
    Memory.wf (c.deselect o draws).1.mem := by
  unfold Chip.deselect
  split
  · exact h
  · dsimp only
    split
    · exact h
    · split
      · exact gapEffect_wf (c := { c with frame := [] }) h _
      · exact perform_wf (c := { c with frame := [] }) h _ _ _

/-! ## A transfer -/

/-- Bit 0 of a status byte says whether a program or erase is in progress, in every chip (20_memory.md R79). -/
theorem Chip.statusReply_busyBit (c : Chip) (draws : Nat) : (c.statusReply draws).1.getLsbD 0 = (c.busy != 0) := by
  unfold Chip.statusReply
  dsimp only
  split <;> simp_all

theorem Chip.statusReply_mem (c : Chip) (draws : Nat) : (c.statusReply draws).2.1.mem = c.mem := by
  unfold Chip.statusReply
  dsimp only
  split <;> rfl

theorem Chip.answer_mem (c : Chip) (w : Option Wire) (draws : Nat) : (c.answer w draws).2.1.mem = c.mem := by
  unfold Chip.answer
  dsimp only
  split
  · split
    · rfl
    · exact c.statusReply_mem draws
  · split <;> rfl
  · split <;> rfl
  · split
    · rfl
    · split <;> rfl
  · split <;> rfl
  · rfl

/-- A transfer never changes the array: programs and erases take effect at the end of their frame. -/
theorem Chip.reply_mem (o : Opcodes) (c : Chip) (draws : Nat) (sent : Byte) : (c.reply o draws sent).2.1.mem = c.mem := by
  unfold Chip.reply
  dsimp only
  split
  · rfl
  · exact c.answer_mem _ draws

/-! ## What a chip never changes -/

theorem Chip.gapEffect_constants (c : Chip) (draws : Nat) : (c.gapEffect draws).1.constants = c.constants := by
  unfold Chip.gapEffect
  split <;> rfl

theorem Chip.start_constants (c : Chip) (draws k : Nat) : (c.start draws k).1.constants = c.constants := by
  unfold Chip.start
  split <;> rfl

theorem Chip.refuse_constants (c : Chip) (draws : Nat) : (c.refuse draws).1.constants = c.constants := by
  unfold Chip.refuse
  split <;> rfl

theorem Chip.armed_constants (c : Chip) (draws : Nat) {effect : Chip × Nat} (he : effect.1.constants = c.constants) :
    (c.armed draws effect).1.constants = c.constants := by
  unfold Chip.armed
  split
  · exact c.refuse_constants draws
  · split
    · exact c.gapEffect_constants draws
    · exact he

theorem Chip.program_constants (c : Chip) (draws a : Nat) (payload : List Byte) :
    (c.program draws a payload).1.constants = c.constants := by
  refine c.armed_constants draws ?_
  split
  · rfl
  · exact start_constants _ _ _

theorem Chip.eraseBlock_constants (c : Chip) (draws a size : Nat) : (c.eraseBlock draws a size).1.constants = c.constants := by
  refine c.armed_constants draws ?_
  split
  · rfl
  · exact start_constants _ _ _

theorem Chip.eraseAll_constants (c : Chip) (draws : Nat) : (c.eraseAll draws).1.constants = c.constants :=
  c.armed_constants draws (start_constants _ _ _)

theorem Chip.writeStatus_constants (c : Chip) (draws : Nat) (v : Byte) : (c.writeStatus draws v).1.constants = c.constants := by
  unfold Chip.writeStatus
  split <;> split <;> rfl

theorem Chip.powerDown_constants (c : Chip) (draws : Nat) : (c.powerDown draws).1.constants = c.constants := by
  unfold Chip.powerDown
  split <;> rfl

theorem Chip.powerUp_constants (c : Chip) (draws : Nat) : (c.powerUp draws).1.constants = c.constants := by
  unfold Chip.powerUp
  split <;> rfl

theorem Chip.perform_constants (c : Chip) (draws : Nat) (w : Option Wire) (frame : List Byte) :
    (c.perform draws w frame).1.constants = c.constants := by
  have hg := c.gapEffect_constants draws
  cases w with
  | none => exact hg
  | some w =>
    cases w <;> simp only [Chip.perform] <;> first | done | (split <;> [skip; exact hg])
    · exact c.program_constants _ _ _
    · exact c.eraseBlock_constants _ _ _
    · exact c.eraseBlock_constants _ _ _
    · exact c.eraseBlock_constants _ _ _
    · exact c.eraseAll_constants _
    · exact c.writeStatus_constants _ _
    · rfl
    · exact c.powerDown_constants _
    · exact c.powerUp_constants _

/-- The end of a frame changes nothing that a chip never changes. -/
theorem Chip.deselect_constants (o : Opcodes) (c : Chip) (draws : Nat) : (c.deselect o draws).1.constants = c.constants := by
  unfold Chip.deselect
  split
  · rfl
  · dsimp only
    split
    · rfl
    · split
      · exact gapEffect_constants { c with frame := [] } _
      · exact perform_constants { c with frame := [] } _ _ _

theorem Chip.statusReply_constants (c : Chip) (draws : Nat) : (c.statusReply draws).2.1.constants = c.constants := by
  unfold Chip.statusReply
  dsimp only
  split <;> rfl

theorem Chip.answer_constants (c : Chip) (w : Option Wire) (draws : Nat) : (c.answer w draws).2.1.constants = c.constants := by
  unfold Chip.answer
  dsimp only
  split
  · split
    · rfl
    · exact c.statusReply_constants draws
  · split <;> rfl
  · split <;> rfl
  · split
    · rfl
    · split <;> rfl
  · split <;> rfl
  · rfl

/-- A transfer changes nothing that a chip never changes. -/
theorem Chip.reply_constants (o : Opcodes) (c : Chip) (draws : Nat) (sent : Byte) :
    (c.reply o draws sent).2.1.constants = c.constants := by
  unfold Chip.reply
  dsimp only
  split
  · rfl
  · exact c.answer_constants _ draws

/-! ## The reference chip -/

theorem Chip.gapEffect_reference {c : Chip} (h : c.gaps = .reference) (draws : Nat) : c.gapEffect draws = (c, draws) := by
  simp [Chip.gapEffect, h]

theorem Chip.gapByte_reference {c : Chip} (h : c.gaps = .reference) (draws : Nat) (b : Byte) :
    c.gapByte draws b = (b, draws) := by
  simp [Chip.gapByte, h]

theorem Chip.start_reference {c : Chip} (h : c.gaps = .reference) (draws k : Nat) :
    c.start draws k = ({ c with busy := k, wel := if k = 0 then false else c.wel }, draws) := by
  simp [Chip.start, h]

theorem Chip.armed_reference {c : Chip} (h : c.gaps = .reference) (draws : Nat) {effect : Chip × Nat} {P : Chip → Prop}
    (hc : P c) (he : P effect.1) : P (c.armed draws effect).1 := by
  unfold Chip.armed
  split
  · simpa [Chip.refuse, h] using hc
  · split
    · rw [gapEffect_reference h]; exact hc
    · exact he

/-- In the reference chip a complete frame leaves the protection bits as they are, or sets them as the status write does. -/
theorem Chip.perform_prot_reference {c : Chip} (h : c.gaps = .reference) (draws : Nat) (w : Option Wire) (frame : List Byte) :
    (c.perform draws w frame).1.prot = c.prot ∨ ∃ v : Byte, (c.perform draws w frame).1.prot = v &&& 0xFC := by
  have hg : (c.gapEffect draws).1.prot = c.prot := by rw [gapEffect_reference h]
  have harmed {effect : Chip × Nat} (he : effect.1.prot = c.prot) : (c.armed draws effect).1.prot = c.prot :=
    armed_reference (P := fun d => d.prot = c.prot) h draws rfl he
  have hprogram a payload : (c.program draws a payload).1.prot = c.prot := harmed (by simp [h, Chip.start])
  have herase a size : (c.eraseBlock draws a size).1.prot = c.prot := harmed (by simp [h, Chip.start])
  have hall : (c.eraseAll draws).1.prot = c.prot := harmed (by simp [h, Chip.start])
  cases w with
  | none => exact .inl hg
  | some w =>
    cases w <;> simp only [Chip.perform] <;> first | exact .inl trivial | (split <;> [skip; exact .inl hg])
    · exact .inl (hprogram _ _)
    · exact .inl (herase _ _)
    · exact .inl (herase _ _)
    · exact .inl (herase _ _)
    · exact .inl hall
    · simp only [Chip.writeStatus, h]
      split
      · exact .inr ⟨_, rfl⟩
      · exact .inl rfl
    · exact .inl rfl
    · simp [Chip.powerDown, h]
    · simp [Chip.powerUp, h]

/-- The end of a frame keeps bits 1 and 0 of the reference chip's protection bits zero. -/
theorem Chip.deselect_protLegal (o : Opcodes) {c : Chip} (hc : c.protLegal) (draws : Nat) :
    (c.deselect o draws).1.protLegal := by
  intro hg
  have h : c.gaps = .reference := by
    have := congrArg (·.2.2.2.2.2) (c.deselect_constants o draws)
    exact this.symm.trans hg
  have hp : (c.deselect o draws).1.prot = c.prot ∨ ∃ v : Byte, (c.deselect o draws).1.prot = v &&& 0xFC := by
    unfold Chip.deselect
    split
    · exact .inl rfl
    · dsimp only
      split
      · exact .inl rfl
      · split
        · rw [gapEffect_reference (by exact h)]; exact .inl rfl
        · exact perform_prot_reference (c := { c with frame := [] }) h _ _ _
  rcases hp with hp | ⟨v, hp⟩ <;> rw [hp]
  · exact hc h
  · rw [BitVec.and_assoc]; simp

/-- A transfer leaves the protection bits as they are. -/
theorem Chip.reply_prot (o : Opcodes) (c : Chip) (draws : Nat) (sent : Byte) : (c.reply o draws sent).2.1.prot = c.prot := by
  unfold Chip.reply
  dsimp only
  split
  · rfl
  · unfold Chip.answer Chip.statusReply
    dsimp only
    repeat' split
    all_goals rfl

/-! ## The environment -/

/-- The flash array of an environment; a bare line has none. -/
def Env.flash : Env → Memory
  | .line _ => []
  | .chip c => c.mem

theorem State.flash_eq (s : State) : s.flash = s.env.flash := by
  unfold State.flash Env.flash
  cases s.env <;> rfl

theorem Env.reply_flash (o : Opcodes) (e : Env) (draws : Nat) (sent : Byte) :
    (e.reply o draws sent).2.1.flash = e.flash := by
  unfold Env.reply
  split
  · rfl
  · rfl
  · exact Chip.reply_mem ..

theorem Env.select_flash (e : Env) : e.select.flash = e.flash := by
  cases e <;> rfl

theorem Env.deselect_wf (o : Opcodes) {e : Env} (h : Memory.wf e.flash) (draws : Nat) :
    Memory.wf (e.deselect o draws).1.flash := by
  cases e with
  | line script => exact h
  | chip c => exact Chip.deselect_wf o h draws

theorem Env.reply_constants (o : Opcodes) (e : Env) (draws : Nat) (sent : Byte) :
    (e.reply o draws sent).2.1.constants? = e.constants? := by
  unfold Env.reply
  split
  · rfl
  · rfl
  · exact congrArg some (Chip.reply_constants ..)

theorem Env.select_constants (e : Env) : e.select.constants? = e.constants? := by
  cases e <;> rfl

theorem Env.deselect_constants (o : Opcodes) (e : Env) (draws : Nat) : (e.deselect o draws).1.constants? = e.constants? := by
  cases e with
  | line script => rfl
  | chip c => exact congrArg some (Chip.deselect_constants ..)

theorem Env.reply_legal (o : Opcodes) {e : Env} (h : e.legal) (draws : Nat) (sent : Byte) : (e.reply o draws sent).2.1.legal := by
  unfold Env.reply
  split
  · trivial
  · trivial
  · next c =>
    have hk := Chip.reply_constants o c draws sent
    refine ⟨?_, fun hg => ?_⟩
    · rw [Chip.fits, show (c.reply o draws sent).2.1.flashBytes = c.flashBytes from congrArg (·.1) hk]; exact h.1
    · rw [Chip.reply_prot]; exact h.2 ((congrArg (·.2.2.2.2.2) hk).symm.trans hg)

theorem Env.select_legal {e : Env} (h : e.legal) : e.select.legal := by
  cases e with
  | line script => trivial
  | chip c => exact h

theorem Env.deselect_legal (o : Opcodes) {e : Env} (h : e.legal) (draws : Nat) : (e.deselect o draws).1.legal := by
  cases e with
  | line script => trivial
  | chip c =>
    refine ⟨?_, Chip.deselect_protLegal o h.2 draws⟩
    show (c.deselect o draws).1.fits
    rw [Chip.fits, show (c.deselect o draws).1.flashBytes = c.flashBytes from congrArg (·.1) (Chip.deselect_constants o c draws)]
    exact h.1

end Sys2Proof.Machine
end

