-- ==== Sys2Proof/Laws/Run.lean ====
section
/-! SUPPORT. What running does: one lemma per micro-operation, what a run of several micro-operations is, and the primitives of
40_dispatcher.md on a data line whose answers are given. Proofs about operations cite these and do not unfold `drain`. -/

namespace Sys2Proof.Machine

/-! ## drain -/

theorem drain_nil (s : State) : drain [] s = { s with control := [], latch := none } := rfl

theorem drain_go {m : Micro} {s s' : State} (h : perform m s = (s', .go)) (ms : List Micro) :
    drain (m :: ms) s = drain ms s' := by
  simp [drain, h]

theorem drain_again {m : Micro} {s s' : State} (h : perform m s = (s', .again)) (ms : List Micro) :
    drain (m :: ms) s = { s' with control := gate ++ ms } := by
  simp [drain, h]

theorem drain_halt {m : Micro} {s s' : State} (h : perform m s = (s', .halt)) (ms : List Micro) :
    drain (m :: ms) s = { s' with control := [] } := by
  simp [drain, h]

theorem drain_ret (r : Ret) (ms : List Micro) (s : State) :
    drain (.ret r :: ms) s = { s.finish (r.eval s) with control := [] } := rfl

theorem drain_gateTest_ready {s : State} (h : busyBit s.st = false) (ms : List Micro) :
    drain (.gateTest :: ms) s = drain ms s := by
  simp [drain, perform, h]

theorem drain_gateTest_busy {s : State} (h : busyBit s.st = true) (ms : List Micro) :
    drain (.gateTest :: ms) s = { s with control := gate ++ ms } := by
  simp [drain, perform, h]

@[simp] theorem drain_begin (ms : List Micro) (s : State) :
    drain (.begin :: ms) s = drain ms { s.emit (.begin s.busCfg) with busHeld := true } := rfl

@[simp] theorem drain_finish (ms : List Micro) (s : State) :
    drain (.finish :: ms) s = drain ms { s.emit .finish with busHeld := false } := rfl

@[simp] theorem drain_csLow (ms : List Micro) (s : State) : drain (.csLow :: ms) s = drain ms s.driveLow := rfl

@[simp] theorem drain_csHigh (ms : List Micro) (s : State) : drain (.csHigh :: ms) s = drain ms s.driveHigh := rfl

@[simp] theorem drain_xfer (o : Out) (k : Keep) (ms : List Micro) (s : State) :
    drain (.xfer o k :: ms) s = drain ms (k.store (s.exchange (o.eval s)).1 (s.exchange (o.eval s)).2) := rfl

@[simp] theorem drain_setA (a : Addr) (ms : List Micro) (s : State) :
    drain (.setA a :: ms) s = drain ms { s with a := a } := rfl

@[simp] theorem drain_setAllFF (ms : List Micro) (s : State) :
    drain (.setAllFF :: ms) s = drain ms { s with allFF := true } := rfl

@[simp] theorem drain_setIdr (ms : List Micro) (s : State) :
    drain (.setIdr :: ms) s = drain ms { s with idr := joinIdent s.hi s.lo } := rfl

@[simp] theorem drain_setUidValid (ms : List Micro) (s : State) :
    drain (.setUidValid :: ms) s = drain ms { s with uidValid := true } := rfl

@[simp] theorem drain_setCnt (k : BitVec 4) (ms : List Micro) (s : State) :
    drain (.setCnt k :: ms) s = drain ms { s with cnt := k } := rfl

@[simp] theorem drain_pinOut (ms : List Micro) (s : State) :
    drain (.pinOut :: ms) s = drain ms { s.emit (.pinmodeOut s.csId) with csOut := true } := rfl

@[simp] theorem drain_busStart (ms : List Micro) (s : State) :
    drain (.busStart :: ms) s = drain ms { s.emit .busStart with session := .active } := rfl

@[simp] theorem drain_busStop (ms : List Micro) (s : State) :
    drain (.busStop :: ms) s = drain ms { s.emit .busStop with session := .ended } := rfl

@[simp] theorem drain_planStart (len : Nat) (ms : List Micro) (s : State) :
    drain (.planStart len :: ms) s =
      drain ms { s with rem := len, off := 0, cap := BitVec.ofNat 9 (firstChunk s.a) } := rfl

@[simp] theorem drain_takeChunk (ms : List Micro) (s : State) :
    drain (.takeChunk :: ms) s = drain ms { s with n := BitVec.ofNat 9 (min s.rem s.cap.toNat) } := rfl

@[simp] theorem drain_advance (ms : List Micro) (s : State) :
    drain (.advance :: ms) s =
      drain ms { s with
        a := advanceAddr s.a s.n.toNat, off := s.off + s.n.toNat, rem := s.rem - s.n.toNat, cap := 256 } := rfl

theorem drain_checkId_match {s : State} (h : s.idr = s.expectedId) (ms : List Micro) :
    drain (.checkId :: ms) s = drain ms s := by
  simp [drain, perform, h]

theorem drain_checkId_mismatch {s : State} (h : s.idr ≠ s.expectedId) (ms : List Micro) :
    drain (.checkId :: ms) s = { s.finish (.bit false) with control := [] } := by
  simp [drain, perform, h]

theorem drain_judge_good {s : State} (h : badSample s.idr s.reference = false) (ms : List Micro) :
    drain (.judge :: ms) s = drain ms { s with first := s.reference } := by
  simp [drain, perform, h]

theorem drain_judge_bad {s : State} (h : badSample s.idr s.reference = true) (ms : List Micro) :
    drain (.judge :: ms) s = { { s with first := s.reference }.finish (.bit false) with control := [] } := by
  simp [drain, perform, h]

/-! ## Acceptance -/

/-- A request that `SESSION` allows, at an idle block, is run. -/
theorem run_of_idle {i : Instr} {prog : List Micro} {s : State} (hp : permitted i s.session = true) (hc : s.control = []) :
    run i prog s = .next (drain prog { s with latch := some i, result := none, control := prog }) := by
  simp [run, accept, hp, hc]

/-- A request that `SESSION` does not allow is refused. -/
theorem run_outside {i : Instr} {prog : List Micro} {s : State} (hp : permitted i s.session = false) :
    run i prog s = .refused (.outsideLifecycle s.session) := by
  simp [run, accept, hp]

/-- A request while an operation runs is refused. -/
theorem run_busy {i : Instr} {prog : List Micro} {s : State} (hp : permitted i s.session = true) (hc : s.control ≠ []) :
    run i prog s = .refused .requestWhileRunning := by
  simp [run, accept, hp, hc]

/-- A micro-operation neither reads nor writes the control position. -/
theorem perform_control (m : Micro) (s : State) (c : List Micro) :
    perform m { s with control := c } = ({ (perform m s).1 with control := c }, (perform m s).2) := by
  cases m with
  | xfer o k => cases o <;> cases k <;> rfl
  | checkId => by_cases h : s.idr = s.expectedId <;> simp [perform, State.finish, h]
  | judge =>
    have hr : State.reference { s with control := c } = s.reference := rfl
    cases h : badSample s.idr s.reference <;> simp [perform, State.finish, hr, h]
  | ret r => cases r <;> rfl
  | _ => rfl

/-- The control position stored in a state does not matter to a run: it is set at its end. -/
theorem drain_control (ms : List Micro) (s : State) (c : List Micro) : drain ms { s with control := c } = drain ms s := by
  induction ms generalizing s with
  | nil => rfl
  | cons m ms ih =>
    have key := perform_control m s c
    rcases hf : perform m s with ⟨s', f⟩
    rw [hf] at key
    cases f with
    | go => rw [drain_go key, drain_go hf, ih]
    | again => rw [drain_again key, drain_again hf]
    | halt => rw [drain_halt key, drain_halt hf]

/-! ## A data line whose answers are given -/

/-- One transfer on a line with a script takes its head. -/
theorem exchange_line {s : State} {b r : Byte} {rest : List Byte} (h : s.env = .line (r :: rest)) :
    s.exchange b = (r, { s with trace := s.trace ++ [.xfer b r], env := .line rest }) := by
  simp [State.exchange, State.emit, Env.reply, h]

/-- A transfer micro-operation on a line with a script. -/
theorem drain_xfer_line {s : State} {r : Byte} {rest : List Byte} (h : s.env = .line (r :: rest)) (o : Out) (k : Keep)
    (ms : List Micro) :
    drain (.xfer o k :: ms) s =
      drain ms (k.store r { s with trace := s.trace ++ [.xfer (o.eval s) r], env := .line rest }) := by
  rw [drain_xfer, exchange_line h]

/-- `CS(low)` on a data line. -/
theorem driveLow_line {s : State} {script : List Byte} (h : s.env = .line script) :
    s.driveLow = { s with trace := s.trace ++ [.cs .low], csLevel := .low } := by
  simp [State.driveLow, State.emit, Env.select, h]

/-- `CS(high)` on a data line. -/
theorem driveHigh_line {s : State} {script : List Byte} (h : s.env = .line script) :
    s.driveHigh = { s with trace := s.trace ++ [.cs .high], csLevel := .high } := by
  simp [State.driveHigh, State.emit, Env.deselect, h]

/-- `select()` on a data line (R140). -/
theorem drain_select_line {s : State} {script : List Byte} (h : s.env = .line script) (ms : List Micro) :
    drain (select ++ ms) s =
      drain ms { s with trace := s.trace ++ [.begin s.busCfg, .cs .low], busHeld := true, csLevel := .low } := by
  simp only [select, List.cons_append, List.nil_append, drain_begin, drain_csLow]
  rw [driveLow_line (by exact h)]
  simp [State.emit]

/-- `deselect()` on a data line (R141). -/
theorem drain_deselect_line {s : State} {script : List Byte} (h : s.env = .line script) (ms : List Micro) :
    drain (deselect ++ ms) s =
      drain ms { s with trace := s.trace ++ [.cs .high, .finish], busHeld := false, csLevel := .high } := by
  simp only [deselect, List.cons_append, List.nil_append, drain_csHigh, drain_finish]
  rw [driveHigh_line h]
  simp [State.emit]

/-- `status_poll()` on a data line (R144): one command cycle, the second answer kept in `ST`. -/
theorem drain_statusPoll_line {s : State} {x st : Byte} {rest : List Byte} (h : s.env = .line (x :: st :: rest))
    (ms : List Micro) :
    drain (statusPoll ++ ms) s =
      drain ms { s with
        st := st, busHeld := false, csLevel := .high, trace := s.trace ++ pollCycle s x st, env := .line rest } := by
  simp only [statusPoll, List.append_assoc]
  rw [drain_select_line h]
  simp only [List.cons_append, List.nil_append]
  rw [drain_xfer_line (by exact h), drain_xfer_line (by rfl), drain_deselect_line (by rfl)]
  simp [Keep.store, Out.eval, pollCycle, cycle, Opcodes.byte]

/-- One turn of the gate that reads ready (R145). -/
theorem drain_gate_ready {s : State} {x st : Byte} {rest : List Byte} (h : s.env = .line (x :: st :: rest))
    (hst : busyBit st = false) (ms : List Micro) :
    drain (gate ++ ms) s =
      drain ms { s with
        st := st, busHeld := false, csLevel := .high, trace := s.trace ++ pollCycle s x st, env := .line rest } := by
  rw [gate, List.append_assoc, drain_statusPoll_line h, List.singleton_append, drain_gateTest_ready (by exact hst)]

/-- One turn of the gate that reads busy (R145): the operation stays at its gate. -/
theorem drain_gate_busy {s : State} {x st : Byte} {rest : List Byte} (h : s.env = .line (x :: st :: rest))
    (hst : busyBit st = true) (ms : List Micro) :
    drain (gate ++ ms) s =
      { s with
        st := st, busHeld := false, csLevel := .high, trace := s.trace ++ pollCycle s x st, env := .line rest,
        control := gate ++ ms } := by
  rw [gate, List.append_assoc, drain_statusPoll_line h, List.singleton_append, drain_gateTest_busy (by exact hst)]
  rfl

/-- Transfers in a row on a data line whose received bytes are discarded. -/
theorem drain_drops_line {s : State} {outs : List Out} {rs rest : List Byte} (h : s.env = .line (rs ++ rest))
    (hl : outs.length = rs.length) (ms : List Micro) :
    drain (outs.map (.xfer · .drop) ++ ms) s =
      drain ms { s with
        trace := s.trace ++ (outs.zip rs).map (fun t => .xfer (t.1.eval s) t.2), env := .line rest } := by
  induction outs generalizing s rs with
  | nil =>
    obtain rfl : rs = [] := by simpa using hl.symm
    simp at h
    simp [← h]
  | cons o outs ih =>
    cases rs with
    | nil => simp at hl
    | cons r rs =>
      simp only [List.map_cons, List.cons_append]
      rw [drain_xfer_line (by exact h), ih (by rfl) (by simpa using hl)]
      simp only [Keep.store, List.zip_cons_cons, List.map_cons, List.append_assoc, List.singleton_append]
      congr 1

end Sys2Proof.Machine
end

