-- ==== Sys2Proof/Laws/Exec.lean ====
section
/-! SUPPORT. What `exec` and `step` can do, once: an instruction is its program, accepted and drained; a run keeps whatever every
micro-operation of its program keeps. -/

namespace Sys2Proof.Machine

/-- Every arm of `exec` runs the instruction's program. -/
theorem exec_eq_run (i : Instr) (s : State) : exec i s = run i (programOf s.params s.expectedId i) s := by
  cases i <;> rfl

/-- What `exec` answers: a next state only for a request that `SESSION` allows, at an idle block, and then the program has been
drained. -/
theorem exec_next {i : Instr} {s t : State} (h : exec i s = .next t) :
    permitted i s.session = true ∧ s.control = [] ∧
      t = drain (programOf s.params s.expectedId i) { s with latch := some i, result := none } := by
  rw [exec_eq_run] at h
  by_cases hp : permitted i s.session = true
  · by_cases hc : s.control = []
    · rw [run_of_idle hp hc] at h
      refine ⟨hp, hc, ?_⟩
      cases h
      exact drain_control _ { s with latch := some i, result := none } _
    · rw [run_busy hp hc] at h; cases h
  · rw [run_outside (by simpa using hp)] at h; cases h

/-- A request that `SESSION` allows, at an idle block. -/
theorem exec_of_idle {i : Instr} {s : State} (hp : permitted i s.session = true) (hc : s.control = []) :
    exec i s = .next (drain (programOf s.params s.expectedId i) { s with latch := some i, result := none }) := by
  rw [exec_eq_run, run_of_idle hp hc]
  exact congrArg _ (drain_control _ { s with latch := some i, result := none } _)

/-- What `SESSION` allows, in words (60_exceptions.md R253). -/
theorem permitted_iff {i : Instr} {q : Session} :
    permitted i q = true ↔ (q = .constructed ∧ i = .initDevice) ∨ (q = .active ∧ i ≠ .initDevice) := by
  cases q <;> simp [permitted]

/-- In a ready state every instruction but bring-up runs. -/
theorem exec_of_ready {i : Instr} {s : State} (h : s.Ready) (hi : i ≠ .initDevice) :
    exec i s = .next (drain (programOf s.params s.expectedId i) { s with latch := some i, result := none }) :=
  exec_of_idle (permitted_iff.mpr (.inr ⟨h.active, hi⟩)) h.idle

/-- A run keeps what each of its micro-operations keeps, and what does not depend on the control position and the latch. The
operation may stay at its gate: the polls' own micro-operations count as part of the program. -/
theorem drain_keeps {P : State → Prop} {ms : List Micro} (hm : ∀ m ∈ ms, ∀ s, P s → P (perform m s).1)
    (hc : ∀ s c l, P s → P { s with control := c, latch := l }) {s : State} (hs : P s) : P (drain ms s) := by
  induction ms generalizing s with
  | nil => exact hc s [] none hs
  | cons m ms ih =>
    have hp := hm m (List.mem_cons_self ..) s hs
    rcases hf : perform m s with ⟨s', f⟩
    rw [hf] at hp
    cases f with
    | go => rw [drain_go hf]; exact ih (fun m' hm' => hm m' (List.mem_cons_of_mem _ hm')) hp
    | again => rw [drain_again hf]; exact hc s' (gate ++ ms) s'.latch hp
    | halt => rw [drain_halt hf]; exact hc s' [] s'.latch hp

/-- What an instruction keeps. -/
theorem exec_keeps {P : State → Prop} {i : Instr} {s t : State} (h : exec i s = .next t)
    (hm : ∀ m ∈ programOf s.params s.expectedId i, ∀ u, P u → P (perform m u).1)
    (hc : ∀ u c l, P u → P { u with control := c, latch := l }) (hs : P { s with latch := some i, result := none }) : P t := by
  obtain ⟨-, -, rfl⟩ := exec_next h
  exact drain_keeps hm hc hs

/-- The three things a step does: run on, wait for a request, run a decoded request. -/
theorem step_next {s t : State} (h : step s = .next t) :
    (s.control ≠ [] ∧ t = drain s.control s) ∨ (s.control = [] ∧ s.requests = [] ∧ t = s) ∨
      ∃ r rest i, s.control = [] ∧ s.requests = r :: rest ∧ decode s.params r = .ok i ∧
        exec i { s with requests := rest } = .next t := by
  unfold step at h
  split at h
  · rename_i m ms hc
    exact .inl ⟨by simp [hc], by cases h; rw [hc]⟩
  · rename_i hc
    split at h
    · rename_i hr
      exact .inr (.inl ⟨hc, hr, by cases h; rfl⟩)
    · rename_i r rest hr
      split at h
      · rename_i i hd
        exact .inr (.inr ⟨r, rest, i, hc, hr, hd, h⟩)
      · cases h

/-- What acceptance answers. -/
theorem accept_next {i : Instr} {prog : List Micro} {s t : State} (h : accept i prog s = .next t) :
    permitted i s.session = true ∧ s.control = [] ∧ t = { s with latch := some i, result := none, control := prog } := by
  by_cases hp : permitted i s.session = true <;> by_cases hc : s.control = [] <;> simp [accept, hp, hc] at h
  exact ⟨hp, hc, by simp [← h]⟩

/-- The three things a tick does: one micro-operation, nothing, the acceptance of a decoded request. -/
theorem tick_next {s t : State} (h : tick s = .next t) :
    (∃ m ms, s.control = m :: ms ∧ t = advanceMicro m ms s) ∨ (s.control = [] ∧ s.requests = [] ∧ t = s) ∨
      ∃ r rest i, s.control = [] ∧ s.requests = r :: rest ∧ decode s.params r = .ok i ∧ permitted i s.session = true ∧
        t = { s with
          requests := rest, latch := some i, result := none, control := programOf s.params s.expectedId i } := by
  unfold tick at h
  split at h
  · rename_i m ms hc
    exact .inl ⟨m, ms, hc, by cases h; rfl⟩
  · rename_i hc
    split at h
    · rename_i hr
      exact .inr (.inl ⟨hc, hr, by cases h; rfl⟩)
    · rename_i r rest hr
      split at h
      · rename_i i hd
        obtain ⟨hp, -, ht⟩ := accept_next h
        exact .inr (.inr ⟨r, rest, i, hc, hr, hd, hp, ht⟩)
      · cases h

/-- A step keeps what every micro-operation keeps, and what depends on nothing the acceptance writes. -/
theorem step_keeps {P : State → Prop} {s t : State} (h : step s = .next t)
    (hm : ∀ m u, P u → P (perform m u).1)
    (hc : ∀ u c l q r, P u → P { u with control := c, latch := l, requests := q, result := r }) (hs : P s) : P t := by
  have hc' : ∀ u c l, P u → P { u with control := c, latch := l } := fun u c l hu => hc u c l u.requests u.result hu
  obtain ⟨-, rfl⟩ | ⟨-, -, rfl⟩ | ⟨r, rest, i, -, -, -, he⟩ := step_next h
  · exact drain_keeps (fun m _ => hm m) hc' hs
  · exact hs
  · exact exec_keeps he (fun m _ => hm m) hc' (hc s s.control (some i) rest none hs)

/-- One more step of a run that starts with a next state. -/
theorem steps_next {s t : State} (h : step s = .next t) (k : Nat) : steps (k + 1) s = steps k t := by
  simp [steps, h]

/-! ## Programs -/

/-- Every program ends in a return. -/
theorem programOf_ends (p : Params) (e : Ident) (i : Instr) : ∃ ms r, programOf p e i = ms ++ [.ret r] := by
  cases i
  case endSession => exact ⟨[.busStop], .done, rfl⟩
  all_goals exact ⟨_, _, rfl⟩

/-! ## What one micro-operation keeps -/

/-- `perform` writes no parameter and no configuration register, and the trace only grows, by at most one event. -/
theorem perform_trace (m : Micro) (s : State) :
    (perform m s).1.trace = s.trace ∨ ∃ e, (perform m s).1.trace = s.trace ++ [e] := by
  cases m with
  | xfer o k => exact .inr ⟨_, by cases k <;> rfl⟩
  | checkId => left; simp only [perform]; split <;> rfl
  | judge => left; simp only [perform]; split <;> rfl
  | gateTest | setA | setAllFF | planStart | takeChunk | advance | setIdr | setUidValid | setCnt | ret => exact .inl rfl
  | pinOut | busStart | busStop | begin | finish | csLow | csHigh => exact .inr ⟨_, rfl⟩

theorem perform_config (m : Micro) (s : State) :
    (perform m s).1.params = s.params ∧ (perform m s).1.csId = s.csId ∧ (perform m s).1.busCfg = s.busCfg ∧
      (perform m s).1.expectedId = s.expectedId ∧ (perform m s).1.requests = s.requests := by
  cases m with
  | xfer o k => cases k <;> exact ⟨rfl, rfl, rfl, rfl, rfl⟩
  | checkId => simp only [perform]; split <;> exact ⟨rfl, rfl, rfl, rfl, rfl⟩
  | judge => simp only [perform]; split <;> exact ⟨rfl, rfl, rfl, rfl, rfl⟩
  | _ => exact ⟨rfl, rfl, rfl, rfl, rfl⟩

end Sys2Proof.Machine
end

