-- ==== Sys2Proof/Laws/Dispatch.lean ====
section
/-! SUPPORT. The dispatcher on a data line whose answers are given (40_dispatcher.md R146, R147): what a dispatched command leaves, with
its gates passing at the first poll. -/

namespace Sys2Proof.Machine

/-- Distinct opcodes: equal bytes are one command's. -/
theorem Opcodes.byte_injective {o : Opcodes} (h : o.distinct) {v w : Wire} (hb : o.byte v = o.byte w) : v = w := by
  have hn : (Wire.all.map o.byte).Nodup := h
  have hmem : ∀ w : Wire, w ∈ Wire.all := by intro w; cases w <;> decide
  exact List.inj_on_of_nodup_map hn (hmem v) (hmem w) hb

/-- The command a first byte names is the one whose opcode it is. -/
theorem Opcodes.find?_byte {o : Opcodes} (h : o.distinct) (w : Wire) : o.find? (o.byte w) = some w := by
  unfold Opcodes.find?
  have hmem : w ∈ Wire.all := by cases w <;> decide
  cases hf : Wire.all.find? (fun v => o.byte v == o.byte w) with
  | none => exact absurd (List.find?_eq_none.mp hf w hmem) (by simp)
  | some v =>
    have := List.find?_some hf
    exact congrArg some (byte_injective h (by simpa using this))

/-- What `find?` finds has the byte looked for. -/
theorem Opcodes.byte_of_find? {o : Opcodes} {b : Byte} {w : Wire} (h : o.find? b = some w) : o.byte w = b := by
  simpa using List.find?_some h

/-- Every opcode is one of the 14 bytes. -/
theorem Opcodes.byte_mem (o : Opcodes) (w : Wire) : o.byte w ∈ o.bytes := by
  cases w <;> simp [Opcodes.byte, Opcodes.bytes]

/-- No other command has the wake opcode, so every other command is gated. -/
theorem dispatchPlain_gated {p : Params} (h : p.opcodes.distinct) {w : Wire} (hw : w ≠ .wake) :
    dispatchPlain p w = gate ++ select ++ [.xfer (.opcode w) .drop] := by
  have : p.opcodes.byte w ≠ p.opcodes.wake := fun hb => hw (Opcodes.byte_injective h (w := .wake) hb)
  simp [dispatchPlain, this]

/-- The wake command is not gated (30_encoding.md R115). -/
theorem dispatchPlain_wake (p : Params) : dispatchPlain p .wake = select ++ [.xfer (.opcode .wake) .drop] := by
  simp [dispatchPlain, Opcodes.byte]

/-- The state a dispatched command leaves to its caller: the bus held, the chip selected, the opcode sent (R146). -/
def State.dispatched (s : State) (w : Wire) (r : Byte) (rest : List Byte) : State :=
  { s with
    busHeld := true, csLevel := .low, env := .line rest
    trace := s.trace ++ [.begin s.busCfg, .cs .low, .xfer (s.params.opcodes.byte w) r] }

/-- `select()` and the opcode. -/
theorem drain_opcode_line {s : State} {w : Wire} {r : Byte} {rest : List Byte} (h : s.env = .line (r :: rest)) (ms : List Micro) :
    drain (select ++ .xfer (.opcode w) .drop :: ms) s = drain ms (s.dispatched w r rest) := by
  rw [drain_select_line h, drain_xfer_line (by exact h)]
  simp [Keep.store, Out.eval, State.dispatched]

/-- A gated command whose gate passes at the first poll. -/
theorem drain_gated_line {p : Params} {s : State} {w : Wire} {x st r : Byte} {rest : List Byte} (he : s.params = p)
    (hp : p.opcodes.distinct) (hw : w ≠ .wake) (h : s.env = .line (x :: st :: r :: rest)) (hst : busyBit st = false)
    (ms : List Micro) :
    drain (dispatchPlain p w ++ ms) s =
      drain ms (State.dispatched
        { s with
          st := st, busHeld := false, csLevel := .high, trace := s.trace ++ pollCycle s x st, env := .line (r :: rest) } w r
          rest) := by
  subst he
  rw [dispatchPlain_gated hp hw, List.append_assoc, List.append_assoc, drain_gate_ready h hst, List.singleton_append,
    drain_opcode_line rfl]

/-- The wake command. -/
theorem drain_wake_line (p : Params) {s : State} {r : Byte} {rest : List Byte} (h : s.env = .line (r :: rest))
    (ms : List Micro) : drain (dispatchPlain p .wake ++ ms) s = drain ms (s.dispatched .wake r rest) := by
  rw [dispatchPlain_wake, List.append_assoc, List.singleton_append, drain_opcode_line h]

/-- A write-type command whose two gates pass at the first poll. -/
theorem drain_armed_line {p : Params} {s : State} {w : Wire} {g : Arming} {r : Byte} {rest : List Byte} (he : s.params = p)
    (hp : p.opcodes.distinct) (hw : w ≠ .wake) (h : s.env = .line (g.bytes ++ r :: rest)) (hg : g.ready = true)
    (ms : List Micro) :
    drain (dispatchWrite p w ++ ms) s =
      drain ms (State.dispatched
        { s with
          st := g.st2, busHeld := false, csLevel := .high, env := .line (r :: rest)
          trace := s.trace ++ gated s g.x1 g.st1 .writeEnable [g.w] ++ pollCycle s g.x2 g.st2 } w r rest) := by
  simp only [Arming.ready, Bool.and_eq_true, Bool.not_eq_true'] at hg
  simp only [Arming.bytes, List.cons_append, List.nil_append] at h
  simp only [dispatchWrite, List.append_assoc]
  rw [drain_gated_line he hp (by decide) h hg.1, drain_deselect_line rfl,
    drain_gated_line (by exact he) hp hw rfl (by exact hg.2)]
  simp [State.dispatched, gated, pollCycle, frameCycle, cycle, encodeFrame, Opcodes.byte]

end Sys2Proof.Machine
end

