-- ==== Sys2Proof/Laws/PerInstr.lean ====
section
/-! SUPPORT. One lemma per instruction about its encoding: a wire command's request is its frame, which begins with the command's own
opcode and has the length of its format (spec/30_encoding.md R100, R118); a host operation's request carries its selector, one of the 18
assigned ones (R120, R122). -/

namespace Sys2Proof.Laws.EncodingShape

open Sys2Proof

/-- The number of bytes the format of a wire command gives its frame (R100): 0 for a host operation, which has none. -/
def size : Instr → Nat
  | .arrayReadLF _ => 5
  | .arrayRead _ n => 5 + n
  | .pageProgram _ d => 4 + d.length
  | .blockErase4KCmd _ | .blockErase32KCmd _ | .blockErase64KCmd _ => 4
  | .statusRead | .statusWrite _ => 2
  | .idRead => 3
  | .uidRead => 13
  | .chipEraseCmd | .writeEnable | .sleepCmd | .wakeCmd => 1
  | .isBusy | .readStatusRegister | .readByte _ | .readBytes _ _ | .regionIsEmpty _ _ | .writeByte _ _ | .writeBytes _ _
  | .eraseBlock4K _ | .eraseBlock32K _ | .eraseBlock64K _ | .eraseChip | .initDevice | .readDeviceId | .readUniqueId | .found
  | .sleep | .wakeup | .endSession => 0

/-- The shape of an instruction's request. -/
def Statement (i : Instr) : Prop :=
  ∀ p : Params,
    match i.wire? with
    | some w =>
      encode p i = .frame (encodeFrame p i) ∧ (encodeFrame p i).head? = some (p.opcodes.byte w) ∧
        (encodeFrame p i).length = size i ∧ (i.wf p = true → w.minFrame ≤ size i)
    | none => ∃ r : HostRequest, encode p i = .host r ∧ i.sel? = some r.sel ∧ r.sel.toNat < 18 ∧ encodeFrame p i = []

theorem arrayReadLF (a : Addr) : Statement (.arrayReadLF a) := fun _ => ⟨rfl, rfl, rfl, fun _ => le_rfl⟩
theorem arrayRead (a : Addr) (n : Nat) : Statement (.arrayRead a n) := fun p =>
  ⟨rfl, rfl, by simp [encodeFrame, addrBytes, size]; omega, fun _ => by simp [Wire.minFrame, size]⟩
theorem pageProgram (a : Addr) (d : List Byte) : Statement (.pageProgram a d) := fun p =>
  ⟨rfl, rfl, by simp [encodeFrame, addrBytes, size]; omega,
    fun h => by simp [Instr.wf] at h; simp [Wire.minFrame, size]; omega⟩
theorem blockErase4KCmd (a : Addr) : Statement (.blockErase4KCmd a) := fun _ => ⟨rfl, rfl, rfl, fun _ => le_rfl⟩
theorem blockErase32KCmd (a : Addr) : Statement (.blockErase32KCmd a) := fun _ => ⟨rfl, rfl, rfl, fun _ => le_rfl⟩
theorem blockErase64KCmd (a : Addr) : Statement (.blockErase64KCmd a) := fun _ => ⟨rfl, rfl, rfl, fun _ => le_rfl⟩
theorem chipEraseCmd : Statement .chipEraseCmd := fun p => ⟨rfl, rfl, rfl, fun _ => by decide⟩
theorem statusRead : Statement .statusRead := fun p => ⟨rfl, rfl, rfl, fun _ => by decide⟩
theorem statusWrite (v : Byte) : Statement (.statusWrite v) := fun _ => ⟨rfl, rfl, rfl, fun _ => le_rfl⟩
theorem writeEnable : Statement .writeEnable := fun p => ⟨rfl, rfl, rfl, fun _ => by decide⟩
theorem idRead : Statement .idRead := fun p => ⟨rfl, rfl, rfl, fun _ => by decide⟩
theorem uidRead : Statement .uidRead := fun p => ⟨rfl, rfl, rfl, fun _ => by decide⟩
theorem sleepCmd : Statement .sleepCmd := fun p => ⟨rfl, rfl, rfl, fun _ => by decide⟩
theorem wakeCmd : Statement .wakeCmd := fun p => ⟨rfl, rfl, rfl, fun _ => by decide⟩
theorem isBusy : Statement .isBusy := fun p => ⟨_, rfl, rfl, by decide, rfl⟩
theorem readStatusRegister : Statement .readStatusRegister := fun p => ⟨_, rfl, rfl, by decide, rfl⟩
theorem readByte (a : Addr) : Statement (.readByte a) := fun p => ⟨_, rfl, rfl, (by decide : (2 : BitVec 5).toNat < 18), rfl⟩
theorem readBytes (a : Addr) (b : Span) : Statement (.readBytes a b) := fun p =>
  ⟨_, rfl, rfl, (by decide : (3 : BitVec 5).toNat < 18), rfl⟩
theorem regionIsEmpty (a : Addr) (n : Byte) : Statement (.regionIsEmpty a n) := fun p =>
  ⟨_, rfl, rfl, (by decide : (4 : BitVec 5).toNat < 18), rfl⟩
theorem writeByte (a : Addr) (v : Byte) : Statement (.writeByte a v) := fun p =>
  ⟨_, rfl, rfl, (by decide : (5 : BitVec 5).toNat < 18), rfl⟩
theorem writeBytes (a : Addr) (b : Span) : Statement (.writeBytes a b) := fun p =>
  ⟨_, rfl, rfl, (by decide : (6 : BitVec 5).toNat < 18), rfl⟩
theorem eraseBlock4K (a : Addr) : Statement (.eraseBlock4K a) := fun p =>
  ⟨_, rfl, rfl, (by decide : (7 : BitVec 5).toNat < 18), rfl⟩
theorem eraseBlock32K (a : Addr) : Statement (.eraseBlock32K a) := fun p =>
  ⟨_, rfl, rfl, (by decide : (8 : BitVec 5).toNat < 18), rfl⟩
theorem eraseBlock64K (a : Addr) : Statement (.eraseBlock64K a) := fun p =>
  ⟨_, rfl, rfl, (by decide : (9 : BitVec 5).toNat < 18), rfl⟩
theorem eraseChip : Statement .eraseChip := fun p => ⟨_, rfl, rfl, by decide, rfl⟩
theorem initDevice : Statement .initDevice := fun p => ⟨_, rfl, rfl, by decide, rfl⟩
theorem readDeviceId : Statement .readDeviceId := fun p => ⟨_, rfl, rfl, by decide, rfl⟩
theorem readUniqueId : Statement .readUniqueId := fun p => ⟨_, rfl, rfl, by decide, rfl⟩
theorem found : Statement .found := fun p => ⟨_, rfl, rfl, by decide, rfl⟩
theorem sleep : Statement .sleep := fun p => ⟨_, rfl, rfl, by decide, rfl⟩
theorem wakeup : Statement .wakeup := fun p => ⟨_, rfl, rfl, by decide, rfl⟩
theorem endSession : Statement .endSession := fun p => ⟨_, rfl, rfl, by decide, rfl⟩

end Sys2Proof.Laws.EncodingShape
end

