-- ==== Sys2Proof/Tests/Slice0.lean ====
section
/-! SUPPORT. The model's own tests. Expected values come from spec/95_test_vectors.md (named in each comment) or are written out by hand
from the encodings of spec/30_encoding.md; the `meets_…` theorems show, for each obligation with hypotheses, a concrete state and operands
that meet all of them together. -/

namespace Sys2Proof.Tests

open Sys2Proof Sys2Proof.Machine

/-! ## WellFormed: an ill-formed term for each check, and a well-formed one at its edge -/

theorem test_wf_arrayRead : (Instr.arrayRead 0 65535).wf Config.params = true ∧ (Instr.arrayRead 0 65536).wf Config.params = false := by
  decide

theorem test_wf_pageProgram_empty :
    (Instr.pageProgram 0x0000FF [0]).wf Config.params = true ∧ (Instr.pageProgram 0x0000FF []).wf Config.params = false := by decide

theorem test_wf_pageProgram_crossing :
    (Instr.pageProgram 0x0000FE [0, 0]).wf Config.params = true ∧ (Instr.pageProgram 0x0000FE [0, 0, 0]).wf Config.params = false := by
  decide

theorem test_wf_statusWrite : (Instr.statusWrite 0x00).wf Config.params = true ∧ (Instr.statusWrite 0x1C).wf Config.params = false := by
  decide

theorem test_wf_readBytes : (Instr.readBytes 0 ⟨0, 65535⟩).wf Config.params = true ∧ (Instr.readBytes 0 ⟨0, 65536⟩).wf Config.params = false := by
  decide

theorem test_wf_writeBytes : (Instr.writeBytes 0 ⟨0, 65535⟩).wf Config.params = true ∧ (Instr.writeBytes 0 ⟨0, 65536⟩).wf Config.params = false := by
  decide

theorem test_params_wf : Config.params.wf := by decide

/-! ## Decoding: the words of every constructor, from R101 to R115 and R120 -/

theorem test_decode_frames_read :
    decodeFrame Config.params [0x03, 0x01, 0x23, 0x45, 0x00] = .ok (.arrayReadLF 0x012345) ∧
    decodeFrame Config.params [0x0B, 0x00, 0x01, 0x00, 0x00] = .ok (.arrayRead 0x000100 0) ∧
    decodeFrame Config.params [0x0B, 0xAB, 0xCD, 0xEF, 0x00, 0x00, 0x00] = .ok (.arrayRead 0xABCDEF 2) := by decide

theorem test_decode_frames_write :
    decodeFrame Config.params [0x02, 0x00, 0x00, 0xFE, 0x11, 0x22] = .ok (.pageProgram 0x0000FE [0x11, 0x22]) ∧
    decodeFrame Config.params [0x20, 0x00, 0x12, 0x34] = .ok (.blockErase4KCmd 0x001234) ∧
    decodeFrame Config.params [0x52, 0x00, 0x80, 0x00] = .ok (.blockErase32KCmd 0x008000) ∧
    decodeFrame Config.params [0xD8, 0x01, 0x00, 0x00] = .ok (.blockErase64KCmd 0x010000) ∧
    decodeFrame Config.params [0x60] = .ok .chipEraseCmd := by decide

theorem test_decode_frames_status :
    decodeFrame Config.params [0x05, 0x00] = .ok .statusRead ∧
    decodeFrame Config.params [0x01, 0x00] = .ok (.statusWrite 0x00) ∧
    decodeFrame Config.params [0x06] = .ok .writeEnable := by decide

theorem test_decode_frames_lifecycle :
    decodeFrame Config.params [0x9F, 0x00, 0x00] = .ok .idRead ∧
    decodeFrame Config.params [0x4B, 0, 0, 0, 0, 0, 0, 0, 0, 0, 0, 0, 0] = .ok .uidRead ∧
    decodeFrame Config.params [0xB9] = .ok .sleepCmd ∧
    decodeFrame Config.params [0xAB] = .ok .wakeCmd := by decide

theorem test_decode_host_status_read :
    decodeHost Config.params ⟨0b00000, 0x012345, 7, 0xA5, 0x20⟩ = .ok .isBusy ∧
    decodeHost Config.params ⟨0b00001, 0x012345, 7, 0xA5, 0x20⟩ = .ok .readStatusRegister ∧
    decodeHost Config.params ⟨0b00010, 0x012345, 7, 0xA5, 0x20⟩ = .ok (.readByte 0x012345) ∧
    decodeHost Config.params ⟨0b00011, 0x012345, 7, 0xA5, 0x20⟩ = .ok (.readBytes 0x012345 ⟨0x20, 7⟩) ∧
    decodeHost Config.params ⟨0b00100, 0x012345, 7, 0xA5, 0x20⟩ = .ok (.regionIsEmpty 0x012345 7) := by decide

theorem test_decode_host_write_erase :
    decodeHost Config.params ⟨0b00101, 0x012345, 7, 0xA5, 0x20⟩ = .ok (.writeByte 0x012345 0xA5) ∧
    decodeHost Config.params ⟨0b00110, 0x012345, 7, 0xA5, 0x20⟩ = .ok (.writeBytes 0x012345 ⟨0x20, 7⟩) ∧
    decodeHost Config.params ⟨0b00111, 0x012345, 7, 0xA5, 0x20⟩ = .ok (.eraseBlock4K 0x012345) ∧
    decodeHost Config.params ⟨0b01000, 0x012345, 7, 0xA5, 0x20⟩ = .ok (.eraseBlock32K 0x012345) ∧
    decodeHost Config.params ⟨0b01001, 0x012345, 7, 0xA5, 0x20⟩ = .ok (.eraseBlock64K 0x012345) ∧
    decodeHost Config.params ⟨0b01010, 0x012345, 7, 0xA5, 0x20⟩ = .ok .eraseChip := by decide

theorem test_decode_host_lifecycle :
    decodeHost Config.params ⟨0b01011, 0, 0, 0, 0x20⟩ = .ok .initDevice ∧
    decodeHost Config.params ⟨0b01100, 0, 0, 0, 0x20⟩ = .ok .readDeviceId ∧
    decodeHost Config.params ⟨0b01101, 0, 0, 0, 0x20⟩ = .ok .readUniqueId ∧
    decodeHost Config.params ⟨0b01110, 0, 0, 0, 0x20⟩ = .ok .found ∧
    decodeHost Config.params ⟨0b01111, 0, 0, 0, 0x20⟩ = .ok .sleep ∧
    decodeHost Config.params ⟨0b10000, 0, 0, 0, 0x20⟩ = .ok .wakeup ∧
    decodeHost Config.params ⟨0b10001, 0, 0, 0, 0x20⟩ = .ok .endSession := by decide

/-- Requests the block refuses to name (R121, R122; 93 U10; V7.7). -/
theorem test_decode_host_refused :
    decodeHost Config.params ⟨18, 0, 0, 0, 0⟩ = .error (.unknownSelector 18) ∧
    decodeHost Config.params ⟨31, 0, 0, 0, 0⟩ = .error (.unknownSelector 31) ∧
    decodeHost Config.params ⟨3, 0, 65536, 0, 0⟩ = .error (.lengthTooWide 65536) ∧
    decodeHost Config.params ⟨4, 0, 255, 0, 0⟩ = .ok (.regionIsEmpty 0 255) ∧
    decodeHost Config.params ⟨4, 0, 256, 0, 0⟩ = .error (.regionTooLong 256) := by decide

/-- Frames the block never emits (R100, R119). -/
theorem test_decode_frames_refused :
    decodeFrame Config.params [] = .error .emptyFrame ∧
    decodeFrame Config.params [0xC7] = .error (.unknownOpcode 0xC7) ∧
    decodeFrame Config.params [0x06, 0x00] = .error (.badFrameLength 0x06) ∧
    decodeFrame Config.params [0x05, 0xFF] = .error (.badFiller 0x05) ∧
    decodeFrame Config.params [0x01, 0x1C] = .error (.statusValueNotZero 0x1C) ∧
    decodeFrame Config.params [0x02, 0x00, 0x00, 0xFF, 0x11, 0x22] = .error (.payloadCrossesPage 0x0000FF) ∧
    decodeFrame Config.params [0x02, 0x00, 0x00, 0xFF] = .error (.badFrameLength 0x02) := by decide

/-- V1.1, V1.4, V1.5, V1.7. -/
theorem test_addr_codec :
    addrBytes 0x012345 = [0x01, 0x23, 0x45] ∧ addrBytes 0xABCDEF = [0xAB, 0xCD, 0xEF] ∧
    addrBytes 0x0000FF = [0x00, 0x00, 0xFF] ∧ addrBytes 0x800000 = [0x80, 0x00, 0x00] := by decide

/-! ## Small states -/

/-- An active, idle instance with the default parameters and EXPECTED_ID = 0xEF30, in a given environment. -/
def active (env : Env) : State :=
  { State.construct Config.params ⟨7⟩ ⟨1, 2, 3⟩ 0xEF30 env with session := .active, csOut := true, csLevel := .high }

/-- The same instance before bring-up, expecting an identifier. -/
def fresh (expected : Ident) (env : Env) : State := State.construct Config.params ⟨7⟩ ⟨1, 2, 3⟩ expected env

/-- The reference chip with the given cells, busy times and protection bits. -/
def chipWith (cells : List Host.Cell) (k : Nat) (prot : Byte) : Env :=
  .chip { Chip.reference with mem := Memory.ofCells cells, kProgram := k, kErase := k, prot := prot }

/-- A trace written as command cycles. -/
def cycles (cs : List (List (Byte × Byte))) : List Event := cs.flatMap (cycle ⟨1, 2, 3⟩)

/-- `<05 00/00>`: a poll that finds the chip ready. -/
def poll : List (Byte × Byte) := [(0x05, 0x00), (0x00, 0x00)]

/-- The bytes of a frame whose every reply is 0x00. -/
def sent (bytes : List Byte) : List (Byte × Byte) := bytes.map (·, 0x00)

/-- One instruction's result and trace, if it answers a next state. -/
def seen (i : Instr) (s : State) : Option (Option Result × List Event) :=
  match exec i s with
  | .next t => some (t.result, t.trace)
  | .fault _ => none
  | .refused _ => none

/-- One byte of the flash array after one instruction. -/
def flashAfter (i : Instr) (s : State) (a : Nat) : Option Byte :=
  match exec i s with
  | .next t => some (Memory.read t.flash a)
  | .fault _ => none
  | .refused _ => none

/-- A refusal. -/
def refusal (i : Instr) (s : State) : Option Refusal :=
  match exec i s with
  | .refused r => some r
  | .next _ => none
  | .fault _ => none

/-! ## One step of each instruction -/

/-- V2.3, V2.5. -/
theorem test_isBusy :
    seen .isBusy (active (.line [0x00, 0xFE])) = some (some (.bit false), cycles [[(0x05, 0x00), (0x00, 0xFE)]]) ∧
    seen .isBusy (active (.line [0x00, 0x03])) = some (some (.bit true), cycles [[(0x05, 0x00), (0x00, 0x03)]]) := by decide

/-- V2.8. -/
theorem test_readStatusRegister :
    seen .readStatusRegister (active (.line [0x00, 0x1C])) =
      some (some (.byte 0x1C), cycles [[(0x05, 0x00), (0x00, 0x1C)]]) := by decide

/-- V3.1. -/
theorem test_readByte :
    seen (.readByte 0x012345) (active (chipWith [(0x012345, 0x5A)] 0 0)) =
      some (some (.byte 0x5A), cycles [poll, [(0x03, 0), (0x01, 0), (0x23, 0), (0x45, 0), (0x00, 0x5A)]]) := by decide

/-- V2.10, its first poll: busy, so the operation waits at its gate and has given no result. -/
theorem test_readByte_waits :
    seen (.readByte 0x000010) (active (.line [0x00, 0x01])) = some (none, cycles [[(0x05, 0x00), (0x00, 0x01)]]) := by decide

/-- V3.4, V3.5. -/
theorem test_readBytes :
    seen (.readBytes 0x000100 ⟨0, 2⟩) (active (chipWith [(0x100, 0x11), (0x101, 0x22)] 0 0)) =
      some (some (.buffer 2), cycles [poll,
        [(0x0B, 0), (0x00, 0), (0x01, 0), (0x00, 0), (0x00, 0), (0x00, 0x11), (0x00, 0x22)]]) ∧
    seen (.readBytes 0x000100 ⟨0, 0⟩) (active (chipWith [] 0 0)) =
      some (some (.buffer 0), cycles [poll, sent [0x0B, 0x00, 0x01, 0x00, 0x00]]) := by decide

/-- V3.4: the buffer. -/
theorem test_readBytes_buffer :
    (match exec (.readBytes 0x000100 ⟨0x20, 2⟩) { active (chipWith [(0x100, 0x11), (0x101, 0x22)] 0 0) with hostMem := [(0x22, 0x77)] } with
      | .next t => some t.hostMem | .fault _ => none | .refused _ => none) =
      some [(0x20, 0x11), (0x21, 0x22), (0x22, 0x77)] := by decide

/-- V3.8, V3.9: the first and the last byte differ. -/
theorem test_regionIsEmpty_false :
    seen (.regionIsEmpty 0x000000 3) (active (chipWith [(2, 0x7F)] 0 0)) =
      some (some (.bit false), cycles [poll, sent [0x0B, 0, 0, 0, 0] ++ [(0x00, 0xFF), (0x00, 0xFF), (0x00, 0x7F)]]) ∧
    seen (.regionIsEmpty 0x000000 3) (active (chipWith [(0, 0xFE)] 0 0)) =
      some (some (.bit false), cycles [poll, sent [0x0B, 0, 0, 0, 0] ++ [(0x00, 0xFE), (0x00, 0xFF), (0x00, 0xFF)]]) := by decide

/-- V3.10, V3.11: an erased region, and an empty one over a byte that is not erased. -/
theorem test_regionIsEmpty_true :
    seen (.regionIsEmpty 0x000000 3) (active (chipWith [] 0 0)) =
      some (some (.bit true), cycles [poll, sent [0x0B, 0, 0, 0, 0] ++ [(0x00, 0xFF), (0x00, 0xFF), (0x00, 0xFF)]]) ∧
    seen (.regionIsEmpty 0x000000 0) (active (chipWith [(0, 0x00)] 0 0)) =
      some (some (.bit true), cycles [poll, sent [0x0B, 0, 0, 0, 0]]) := by decide

/-- V4.1. -/
theorem test_writeByte :
    seen (.writeByte 0x012345 0xA5) (active (chipWith [] 0 0)) =
      some (some .done, cycles [poll, sent [0x06], poll, sent [0x02, 0x01, 0x23, 0x45, 0xA5]]) := by decide

/-- V4.2, and the program of a protected chip (P5, step 2). -/
theorem test_writeByte_and :
    flashAfter (.writeByte 0x000010 0x3C) (active (chipWith [(0x10, 0xF0)] 0 0)) 0x10 = some 0x30 ∧
    flashAfter (.writeByte 0x000010 0x00) (active (chipWith [] 0 0x1C)) 0x10 = some 0xFF := by decide

/-- V4.6: two chunks of one byte each. -/
theorem test_writeBytes :
    seen (.writeBytes 0x0001FF ⟨0x20, 2⟩) { active (chipWith [] 0 0) with hostMem := [(0, 0x99), (0x20, 0xAB), (0x21, 0xCD)] } =
      some (some .done, cycles [poll, sent [0x06], poll, sent [0x02, 0x00, 0x01, 0xFF, 0xAB],
        poll, sent [0x06], poll, sent [0x02, 0x00, 0x02, 0x00, 0xCD]]) := by decide

/-- V4.4, V4.7: no byte at all; the last byte of the array and the first. -/
theorem test_writeBytes_edges :
    seen (.writeBytes 0x000040 ⟨0, 0⟩) (active (chipWith [] 0 0)) = some (some .done, []) ∧
    flashAfter (.writeBytes 0xFFFFFF ⟨0, 2⟩) { active (chipWith [] 0 0) with hostMem := [(0, 0x01), (1, 0x02)] } 0 = some 0x02 := by decide

/-- V4.b, V4.c, V4.f, V4.l: the planner alone. -/
theorem test_plan :
    plan 0x000100 256 = [⟨0x000100, 0, 256⟩] ∧ plan 0x000100 257 = [⟨0x000100, 0, 256⟩, ⟨0x000200, 256, 1⟩] ∧
    plan 0x000010 300 = [⟨0x000010, 0, 240⟩, ⟨0x000100, 240, 60⟩] ∧
    plan 0xFFFFFF 2 = [⟨0xFFFFFF, 0, 1⟩, ⟨0x000000, 1, 1⟩] := by decide

/-- V5.5; P3: the block's last byte is erased, the next block's first is not. -/
theorem test_eraseBlock4K :
    seen (.eraseBlock4K 0x001234) (active (chipWith [] 0 0)) =
      some (some .done, cycles [poll, sent [0x06], poll, sent [0x20, 0x00, 0x12, 0x34]]) ∧
    flashAfter (.eraseBlock4K 0x001000) (active (chipWith [(0x1FFF, 0x12), (0x2000, 0x34)] 3 0)) 0x1FFF = some 0xFF ∧
    flashAfter (.eraseBlock4K 0x001000) (active (chipWith [(0x1FFF, 0x12), (0x2000, 0x34)] 3 0)) 0x2000 = some 0x34 := by decide

/-- V5.2. -/
theorem test_eraseBlock32K :
    seen (.eraseBlock32K 0x008000) (active (chipWith [] 0 0)) =
      some (some .done, cycles [poll, sent [0x06], poll, sent [0x52, 0x00, 0x80, 0x00]]) := by decide

/-- V5.6. -/
theorem test_eraseBlock64K :
    seen (.eraseBlock64K 0xFFFFFF) (active (chipWith [] 0 0)) =
      some (some .done, cycles [poll, sent [0x06], poll, sent [0xD8, 0xFF, 0xFF, 0xFF]]) := by decide

/-- V5.4. -/
theorem test_eraseChip :
    seen .eraseChip (active (chipWith [(5, 0x00)] 0 0)) =
      some (some .done, cycles [poll, sent [0x06], poll, sent [0x60]]) ∧
    flashAfter .eraseChip (active (chipWith [(5, 0x00)] 0 0)) 5 = some 0xFF := by decide

/-- V6.1 (and P1, step 1, whose chip is protected), V6.3. -/
theorem test_init_true :
    seen .initDevice (fresh 0xEF30 (chipWith [] 0 0x1C)) =
      some (some (.bit true), [.pinmodeOut ⟨7⟩, .busStart, .cs .high] ++ cycles [sent [0xAB], [(0x05, 0), (0x00, 0x1C)],
        [(0x9F, 0), (0x00, 0xEF), (0x00, 0x30)], [(0x05, 0), (0x00, 0x1C)], sent [0x06], [(0x05, 0), (0x00, 0x1C)],
        sent [0x01, 0x00]]) ∧
    seen .initDevice (fresh 0x0000 (chipWith [] 0 0)) =
      some (some (.bit true), [.pinmodeOut ⟨7⟩, .busStart, .cs .high] ++ cycles [sent [0xAB], poll, sent [0x06], poll,
        sent [0x01, 0x00]]) := by decide

/-- V6.4: all 16 bits are compared, and no status write follows. -/
theorem test_init_false :
    seen .initDevice (fresh 0xEF30 (.line [0, 0, 0, 0, 0xEF, 0x31])) =
      some (some (.bit false), [.pinmodeOut ⟨7⟩, .busStart, .cs .high] ++ cycles [sent [0xAB], poll,
        [(0x9F, 0), (0x00, 0xEF), (0x00, 0x31)]]) := by decide

/-- V6.5. -/
theorem test_readDeviceId :
    seen .readDeviceId (active (chipWith [] 0 0)) =
      some (some (.ident 0xEF30), cycles [poll, [(0x9F, 0), (0x00, 0xEF), (0x00, 0x30)]]) := by decide

/-- V6.6. -/
theorem test_readUniqueId :
    seen .readUniqueId (active (chipWith [] 0 0)) =
      some (some (.uid #v[0xD1, 0xD2, 0xD3, 0xD4, 0xD5, 0xD6, 0xD7, 0xD8]), cycles [poll, sent [0x4B, 0, 0, 0, 0] ++
        [(0, 0xD1), (0, 0xD2), (0, 0xD3), (0, 0xD4), (0, 0xD5), (0, 0xD6), (0, 0xD7), (0, 0xD8)]]) := by decide

set_option maxRecDepth 8000 in
/-- V6.7. -/
theorem test_found_true :
    seen .found (active (chipWith [] 0 0)) =
      some (some (.bit true), cycles ([sent [0xAB]] ++
        (List.replicate 10 [poll, [(0x9F, 0), (0x00, 0xEF), (0x00, 0x30)]]).flatten)) := by decide

/-- V6.9, V6.10. -/
theorem test_found_false :
    seen .found (active (.line [0, 0, 0, 0, 0xFF, 0xFF])) =
      some (some (.bit false), cycles [sent [0xAB], poll, [(0x9F, 0), (0x00, 0xFF), (0x00, 0xFF)]]) ∧
    seen .found (active (.line [0, 0, 0, 0, 0xEF, 0x30, 0, 0, 0, 0xEF, 0x30, 0, 0, 0, 0xEF, 0x31])) =
      some (some (.bit false), cycles [sent [0xAB], poll, [(0x9F, 0), (0x00, 0xEF), (0x00, 0x30)], poll,
        [(0x9F, 0), (0x00, 0xEF), (0x00, 0x30)], poll, [(0x9F, 0), (0x00, 0xEF), (0x00, 0x31)]]) := by decide

/-- V2.12, V6.14: the sleeping reference chip answers the next status read with FF (P4, step 2). -/
theorem test_sleep :
    seen .sleep (active (chipWith [] 0 0)) = some (some .done, cycles [poll, sent [0xB9]]) ∧
    (match exec .sleep (active (chipWith [] 0 0)) with
      | .next t => seen .isBusy { t with trace := [] } | .fault _ => none | .refused _ => none) =
      some (some (.bit true), cycles [[(0x05, 0xFF), (0x00, 0xFF)]]) := by decide

/-- V2.11, V6.15. -/
theorem test_wakeup :
    seen .wakeup (active (.line [0x00])) = some (some .done, cycles [sent [0xAB]]) ∧
    (match exec .wakeup (active (.chip { Chip.reference with asleep := true })) with
      | .next t => some t.env | .fault _ => none | .refused _ => none) = some (.chip Chip.reference) := by decide

/-- V6.16; V7.6: what comes after is refused. -/
theorem test_end :
    seen .endSession (active (.line [])) = some (some .done, [.busStop]) ∧
    (match exec .endSession (active (.line [])) with
      | .next t => refusal .wakeup t | .fault _ => none | .refused _ => none) = some (.outsideLifecycle .ended) := by decide

/-- V7.1 to V7.5. -/
theorem test_refusals :
    refusal (.readByte 0) (fresh 0 (.line [])) = some (.outsideLifecycle .constructed) ∧
    refusal .endSession (fresh 0 (.line [])) = some (.outsideLifecycle .constructed) ∧
    refusal .isBusy (fresh 0 (.line [])) = some (.outsideLifecycle .constructed) ∧
    refusal .initDevice (active (.line [])) = some (.outsideLifecycle .active) ∧
    refusal .initDevice { active (.line []) with session := .ended } = some (.outsideLifecycle .ended) := by decide

/-- The wire commands by themselves have the traces of the operations that are made of one of them (V2.8, V3.1, V3.4). -/
theorem test_read_commands :
    seen .statusRead (active (.line [0x00, 0x1C])) = some (some (.byte 0x1C), cycles [[(0x05, 0x00), (0x00, 0x1C)]]) ∧
    seen (.arrayReadLF 0x012345) (active (chipWith [(0x012345, 0x5A)] 0 0)) =
      some (some (.byte 0x5A), cycles [poll, [(0x03, 0), (0x01, 0), (0x23, 0), (0x45, 0), (0x00, 0x5A)]]) ∧
    seen (.arrayRead 0x000100 1) (active (chipWith [(0x100, 0x11)] 0 0)) =
      some (some (.buffer 1), cycles [poll, sent [0x0B, 0x00, 0x01, 0x00, 0x00] ++ [(0x00, 0x11)]]) := by decide

/-- V4.1, V5.1 to V5.4, V6.1 (its last four cycles). -/
theorem test_write_commands :
    seen (.pageProgram 0x012345 [0xA5]) (active (chipWith [] 0 0)) =
      some (some .done, cycles [poll, sent [0x06], poll, sent [0x02, 0x01, 0x23, 0x45, 0xA5]]) ∧
    seen (.blockErase4KCmd 0x001000) (active (chipWith [] 0 0)) =
      some (some .done, cycles [poll, sent [0x06], poll, sent [0x20, 0x00, 0x10, 0x00]]) ∧
    seen (.blockErase32KCmd 0x008000) (active (chipWith [] 0 0)) =
      some (some .done, cycles [poll, sent [0x06], poll, sent [0x52, 0x00, 0x80, 0x00]]) ∧
    seen (.blockErase64KCmd 0x010000) (active (chipWith [] 0 0)) =
      some (some .done, cycles [poll, sent [0x06], poll, sent [0xD8, 0x01, 0x00, 0x00]]) ∧
    seen .chipEraseCmd (active (chipWith [] 0 0)) = some (some .done, cycles [poll, sent [0x06], poll, sent [0x60]]) ∧
    seen (.statusWrite 0x00) (active (chipWith [] 0 0)) =
      some (some .done, cycles [poll, sent [0x06], poll, sent [0x01, 0x00]]) ∧
    seen .writeEnable (active (chipWith [] 0 0)) = some (some .done, cycles [poll, sent [0x06]]) := by decide

/-- V6.5, V6.14, V6.15. -/
theorem test_lifecycle_commands :
    seen .idRead (active (chipWith [] 0 0)) =
      some (some (.ident 0xEF30), cycles [poll, [(0x9F, 0), (0x00, 0xEF), (0x00, 0x30)]]) ∧
    seen .sleepCmd (active (chipWith [] 0 0)) = some (some .done, cycles [poll, sent [0xB9]]) ∧
    seen .wakeCmd (active (chipWith [] 0 0)) = some (some .done, cycles [sent [0xAB]]) := by decide

/-- V6.6. -/
theorem test_uidRead :
    seen .uidRead (active (chipWith [] 0 0)) =
      some (some (.uid #v[0xD1, 0xD2, 0xD3, 0xD4, 0xD5, 0xD6, 0xD7, 0xD8]), cycles [poll, sent [0x4B, 0, 0, 0, 0] ++
        [(0, 0xD1), (0, 0xD2), (0, 0xD3), (0, 0xD4), (0, 0xD5), (0, 0xD6), (0, 0xD7), (0, 0xD8)]]) := by decide

/-- V4.10: a chip that stays busy for two polls after a program holds up the next chunk. -/
theorem test_writeBytes_busy :
    seen (.writeBytes 0x0000FE ⟨0, 4⟩) { active (chipWith [] 2 0) with hostMem := [(0, 0x11), (1, 0x22), (2, 0x33), (3, 0x44)] } =
      some (none, cycles [poll, sent [0x06], poll, sent [0x02, 0x00, 0x00, 0xFE, 0x11, 0x22], [(0x05, 0), (0x00, 0x01)]]) := by decide

/-! ## Reset and the fetch -/

/-- R36: nothing emitted, idle; memory in its canonical form with nothing listed. -/
theorem test_reset : State.reset.hostMem = [] ∧ State.reset.flash = [] ∧ State.reset.trace = [] ∧ State.reset.control = [] := by decide

theorem test_reset_memory_wf : Memory.wf State.reset.hostMem ∧ Memory.wf State.reset.flash := by decide

/-- The instruction of a table word is the host's next request, and the session allows it. -/
theorem test_withFetchWord :
    (State.reset.withFetchWord 8 0x9F).requests = [.frame [0x9F, 0x00, 0x00]] ∧
    (State.reset.withFetchWord 8 0x9F).session = .active ∧
    (State.reset.withFetchWord 8 0x0B).requests = [.host ⟨11, 0, 0, 0, 0⟩] ∧
    (State.reset.withFetchWord 8 0x0B).session = .constructed := by decide

/-! ## Witnesses: what meets the hypotheses of each obligation -/

/-- An active, idle instance with distinct opcodes. -/
theorem active_ready (env : Env) : (active env).Ready := ⟨rfl, rfl, test_params_wf.1⟩

/-- A state that waits at a gate with `isBusy`'s return after it, in a running `readByte`. -/
def waiting (env : Env) : State := { active env with control := gate ++ [.ret .datum], latch := some (.readByte 0) }

theorem meets_DecodeEncode : Config.params.opcodes.distinct ∧
    (Instr.pageProgram 0x0000FE [0x11, 0x22]).wf Config.params = true ∧ (Instr.readBytes 0xFFFFFF ⟨0, 65535⟩).wf Config.params = true := by
  decide

theorem meets_DecodeFrameSound :
    decodeFrame Config.params [0x02, 0x00, 0x00, 0xFF, 0x11] = .ok (.pageProgram 0x0000FF [0x11]) := by decide

/-- Each clause at the edge of its range: the longest length that fits, and the first that does not. -/
theorem meets_DecodeHostSound :
    9 ≤ Config.params.lenBits ∧ decodeHost Config.params ⟨4, 0, 255, 0, 0⟩ = .ok (.regionIsEmpty 0 255) ∧
    2 ^ Config.params.lenBits ≤ (⟨3, 0, 65536, 0, 0⟩ : HostRequest).len ∧ (⟨6, 0, 65535, 0, 0⟩ : HostRequest).len < 2 ^ Config.params.lenBits ∧
    256 ≤ (⟨4, 0, 256, 0, 0⟩ : HostRequest).len ∧ (⟨4, 0, 255, 0, 0⟩ : HostRequest).len < 256 ∧
    (⟨17, 0, 65536, 0, 0⟩ : HostRequest).sel.toNat < 18 := by decide

theorem meets_SendAddr : (active (.line [1, 2, 3])).env = .line (1 :: 2 :: 3 :: []) := rfl

theorem meets_OutsideLifecycleRefused :
    ((fresh 0 (.line [])).session = .constructed ∧ Instr.isBusy ≠ .initDevice) ∧ (active (.line [])).session = .active ∧
      { active (.line []) with session := .ended }.session = .ended := by decide

theorem meets_RequestWhileRunningRefused :
    ((waiting (.line [])).control ≠ [] ∧ (waiting (.line [])).session = .active ∧ Instr.isBusy ≠ .initDevice) ∧
      { fresh 0 (.line []) with control := gate }.control ≠ [] ∧
      { fresh 0 (.line []) with control := gate }.session = .constructed := by decide

theorem meets_UnknownSelectorRefused :
    { active (.line []) with requests := [.host ⟨18, 0, 0, 0, 0⟩] }.control = [] ∧ 18 ≤ (18 : BitVec 5).toNat ∧
      18 ≤ (31 : BitVec 5).toNat := by decide

theorem meets_PermittedAccepted :
    ((fresh 0 (.line [])).control = [] ∧ (fresh 0 (.line [])).session = .constructed) ∧
      (active (.line [])).control = [] ∧ (active (.line [])).session = .active ∧ Instr.isBusy ≠ .initDevice := by decide

theorem meets_StepRunsDecoded :
    (∃ s : State, s.control = [] ∧ s.requests = [.frame [0xAB]] ∧ decode s.params (.frame [0xAB]) = .ok .wakeCmd) ∧
      decode (active (.line [])).params (.host ⟨4, 0, 256, 0, 0⟩) = .error (.regionTooLong 256) ∧
      (active (.line [])).requests = [] ∧ (waiting (.line [])).control ≠ [] :=
  ⟨⟨{ active (.line []) with requests := [.frame [0xAB]] }, rfl, rfl, by decide⟩, by decide, rfl, by decide⟩

/-- Two busy polls, then one that is not; and, with `busy = []`, none. -/
theorem meets_GatePolls :
    (waiting (.line [0, 0x01, 0, 0xFF, 0, 0xFE])).control = gate ++ [.ret .datum] ∧
    (∀ p ∈ [((0 : Byte), (0x01 : Byte)), (0, 0xFF)], busyBit p.2 = true) ∧ busyBit 0xFE = false ∧
    (waiting (.line [0, 0x01, 0, 0xFF, 0, 0xFE])).env =
      .line ([((0 : Byte), (0x01 : Byte)), (0, 0xFF)].flatMap (fun p => [p.1, p.2]) ++ [0, 0xFE]) :=
  ⟨rfl, by simp [busyBit], by decide, rfl⟩

theorem meets_BusyPollWaits : gatedFirst (.writeBytes 0 ⟨0, 1⟩) = true ∧ busyBit 0x01 = true ∧
    (active (.line [0, 0x01])).env = .line (0 :: 0x01 :: []) := by decide

/-- `eraseChip` asked for, on a line with one busy poll at its second gate. -/
def erasing : State := { active (.line [0, 0x00, 0, 0, 0x01, 0, 0x00, 0]) with requests := [.host ⟨10, 0, 0, 0, 0⟩] }

theorem meets_BusyPollAdds : erasing.OnProgram ∧ erasing.env = .line ([0, 0x00, 0] ++ 0 :: 0x01 :: [0, 0x00, 0]) ∧
    (∃ t, step erasing = .next t ∧ t.control ≠ [] ∧ t.env = .line [0, 0x00, 0] ∧ t.draws = erasing.draws) ∧
    ∃ u, step { erasing with env := .line ([0, 0x00, 0] ++ [0, 0x00, 0]) } = .next u :=
  ⟨.inl rfl, rfl, ⟨_, rfl, by decide, by decide, rfl⟩, _, rfl⟩

theorem meets_StepIsTicks : (∃ t, step (waiting (.line [])) = .next t) ∧ ∃ t, tick (waiting (.line [])) = .next t :=
  ⟨⟨_, rfl⟩, _, rfl⟩

theorem meets_IsBusy : (active (.line [0, 0xFF])).Ready ∧ (active (.line [0, 0xFF])).env = .line (0 :: 0xFF :: []) ∧
    (fresh 0 (.line [])).session ≠ .active := ⟨active_ready _, rfl, by decide⟩

theorem meets_ReadStatusRegister : (active (.line [0, 0x1C])).Ready ∧ (active (.line [0, 0x1C])).env = .line (0 :: 0x1C :: []) ∧
    { active (.line []) with session := .ended }.session ≠ .active := ⟨active_ready _, rfl, by decide⟩

/-- A write-type command whose gates pass at once. -/
def ready : Arming := ⟨0, 0x00, 0, 0, 0xFE⟩

theorem meets_StatusWriteCommand : (active (.line (ready.bytes ++ [0, 0]))).Ready ∧ ready.ready = true ∧ [(0 : Byte), 0].length = 2 ∧
    (active (.line (ready.bytes ++ [0, 0]))).env = .line (ready.bytes ++ [0, 0] ++ []) := ⟨active_ready _, by decide, rfl, rfl⟩

theorem meets_WriteEnableCommand : (active (.line [0, 0xFE, 0])).Ready ∧ busyBit 0xFE = false ∧
    (active (.line [0, 0xFE, 0])).env = .line (0 :: 0xFE :: 0 :: []) := ⟨active_ready _, by decide, rfl⟩

theorem meets_ReadByte : (active (.line [0, 0, 1, 2, 3, 4, 5])).Ready ∧ busyBit 0 = false ∧
    (active (.line [0, 0, 1, 2, 3, 4, 5])).env = .line (0 :: 0 :: 1 :: 2 :: 3 :: 4 :: 5 :: []) := ⟨active_ready _, by decide, rfl⟩

theorem meets_ReadByteGated : (active (.line [0, 0x01, 0, 0xFE, 1, 2, 3, 4, 5])).Ready ∧
    (∀ p ∈ [((0 : Byte), (0x01 : Byte))], busyBit p.2 = true) ∧ busyBit 0xFE = false ∧
    (active (.line [0, 0x01, 0, 0xFE, 1, 2, 3, 4, 5])).env =
      .line ([((0 : Byte), (0x01 : Byte))].flatMap (fun p => [p.1, p.2]) ++ 0 :: 0xFE :: 1 :: 2 :: 3 :: 4 :: 5 :: []) ∧
    (fresh 0 (.line [])).session ≠ .active := ⟨active_ready _, by simp [busyBit], by decide, rfl, by decide⟩

/-- Two bytes of data; and none. -/
theorem meets_ReadBytes : (active (.line [0, 0, 1, 2, 3, 4, 5, 0x11, 0x22])).Ready ∧ busyBit 0 = false ∧
    [(1 : Byte), 2, 3, 4, 5].length = 5 ∧
    (active (.line [0, 0, 1, 2, 3, 4, 5, 0x11, 0x22])).env = .line (0 :: 0 :: [1, 2, 3, 4, 5] ++ [0x11, 0x22] ++ []) ∧
    (active (.line [0, 0, 1, 2, 3, 4, 5])).env = .line (0 :: 0 :: [1, 2, 3, 4, 5] ++ [] ++ []) :=
  ⟨active_ready _, by decide, rfl, rfl, rfl⟩

theorem meets_BufferFilled : Memory.wf [(0, 0x11), (7, 0x22)] ∧ 7 < 0x20 := by decide

/-- The longest region, 255 bytes. -/
theorem meets_RegionIsEmpty : (active (.line (0 :: 0 :: [1, 2, 3, 4, 5] ++ List.replicate 255 0xFF ++ []))).Ready ∧
    busyBit 0 = false ∧ [(1 : Byte), 2, 3, 4, 5].length = 5 ∧ (List.replicate 255 (0xFF : Byte)).length = (255 : Byte).toNat :=
  ⟨active_ready _, by decide, rfl, List.length_replicate ..⟩

theorem meets_WriteByte : (active (.line (ready.bytes ++ [0, 1, 2, 3, 4]))).Ready ∧ ready.ready = true ∧
    [(0 : Byte), 1, 2, 3, 4].length = 5 ∧
    (active (.line (ready.bytes ++ [0, 1, 2, 3, 4]))).env = .line (ready.bytes ++ [0, 1, 2, 3, 4] ++ []) :=
  ⟨active_ready _, by decide, rfl, rfl⟩

theorem meets_PageProgramCommand : (active (.line (ready.bytes ++ [0, 0, 0, 0, 0, 0]))).Ready ∧ ready.ready = true ∧
    [(0 : Byte), 0, 0, 0, 0, 0].length = 4 + [(0x11 : Byte), 0x22].length ∧
    (active (.line (ready.bytes ++ [0, 0, 0, 0, 0, 0]))).env = .line (ready.bytes ++ [0, 0, 0, 0, 0, 0] ++ []) :=
  ⟨active_ready _, by decide, rfl, rfl⟩

/-- The replies to a chunk of one byte. -/
def oneByte : ChunkReply := ⟨ready, [0, 0, 0, 0, 0]⟩

/-- Two chunks across a page boundary; and the end of the address space. -/
theorem meets_WriteBytes :
    (active (.line ([oneByte, oneByte].flatMap ChunkReply.bytes ++ []))).Ready ∧
    List.Forall₂ ChunkReply.fits (plan 0x0001FF 2) [oneByte, oneByte] ∧
    List.Forall₂ ChunkReply.fits (plan 0xFFFFFF 2) [oneByte, oneByte] ∧
    (plan 0x0001FF 2).getLast? = some ⟨0x000200, 1, 1⟩ ∧ [oneByte, oneByte].getLast? = some oneByte :=
  ⟨active_ready _,
    .cons ⟨by decide, by decide⟩ (.cons ⟨by decide, by decide⟩ .nil),
    .cons ⟨by decide, by decide⟩ (.cons ⟨by decide, by decide⟩ .nil), by decide, by decide⟩

theorem meets_WriteBytesNothing : (active (.line [])).Ready := active_ready _

theorem meets_PageInvariant : (⟨0x000100, 0, 256⟩ : Chunk) ∈ plan 0x000100 257 ∧ (⟨0x000200, 256, 1⟩ : Chunk) ∈ plan 0x000100 257 := by
  decide

theorem meets_PlanComplete : (plan 0xFFFFFF 2)[1]? = some ⟨0x000000, 1, 1⟩ := by decide

theorem meets_BlockErases : (active (.line (ready.bytes ++ [0, 0, 0, 0]))).Ready ∧ ready.ready = true ∧
    [(0 : Byte), 0, 0, 0].length = 4 ∧
    (active (.line (ready.bytes ++ [0, 0, 0, 0]))).env = .line (ready.bytes ++ [0, 0, 0, 0] ++ []) :=
  ⟨active_ready _, by decide, rfl, rfl⟩

theorem meets_ChipErase : (active (.line (ready.bytes ++ [0]))).Ready ∧ ready.ready = true ∧
    (active (.line (ready.bytes ++ [0]))).env = .line (ready.bytes ++ 0 :: []) := ⟨active_ready _, by decide, rfl⟩

/-- One busy poll at the first gate, two at the second. -/
theorem meets_EraseChipGated :
    (active (.line [0, 0x01, 0, 0x00, 0, 0, 0x03, 0, 0xFF, 0, 0xFE, 0])).Ready ∧ ready.ready = true ∧
    (∀ p ∈ [((0 : Byte), (0x01 : Byte))], busyBit p.2 = true) ∧
    (∀ p ∈ [((0 : Byte), (0x03 : Byte)), (0, 0xFF)], busyBit p.2 = true) ∧
    (active (.line [0, 0x01, 0, 0x00, 0, 0, 0x03, 0, 0xFF, 0, 0xFE, 0])).env =
      .line ([((0 : Byte), (0x01 : Byte))].flatMap (fun p => [p.1, p.2]) ++ [ready.x1, ready.st1, ready.w]
        ++ [((0 : Byte), (0x03 : Byte)), (0, 0xFF)].flatMap (fun p => [p.1, p.2]) ++ [ready.x2, ready.st2, 0] ++ []) :=
  ⟨active_ready _, by decide, by simp [busyBit], by simp [busyBit], rfl⟩

theorem meets_InitUnchecked : (fresh 0 (.line (0 :: ready.bytes ++ [0, 0] ++ []))).session = .constructed ∧
    (fresh 0 (.line (0 :: ready.bytes ++ [0, 0] ++ []))).control = [] ∧
    (fresh 0 (.line (0 :: ready.bytes ++ [0, 0] ++ []))).params.opcodes.distinct ∧
    (fresh 0 (.line (0 :: ready.bytes ++ [0, 0] ++ []))).expectedId = 0x0000 ∧ ready.ready = true := by decide

/-- The sample of a chip that is not busy and answers 0xEF30. -/
def good : Sample := ⟨0, 0x00, 0, 0xEF, 0x30⟩

theorem meets_InitMatch : (fresh 0xEF30 (.line (0 :: good.bytes ++ ready.bytes ++ [0, 0] ++ []))).session = .constructed ∧
    (fresh 0xEF30 (.line (0 :: good.bytes ++ ready.bytes ++ [0, 0] ++ []))).control = [] ∧
    (fresh 0xEF30 (.line (0 :: good.bytes ++ ready.bytes ++ [0, 0] ++ []))).params.opcodes.distinct ∧
    (fresh 0xEF30 (.line (0 :: good.bytes ++ ready.bytes ++ [0, 0] ++ []))).expectedId ≠ 0x0000 ∧
    busyBit good.st = false ∧ good.ident = (fresh 0xEF30 (.line [])).expectedId ∧ ready.ready = true := by decide

/-- An identifier that differs in one bit. -/
theorem meets_InitMismatch : (fresh 0xEF31 (.line (0 :: good.bytes ++ []))).session = .constructed ∧
    (fresh 0xEF31 (.line (0 :: good.bytes ++ []))).control = [] ∧
    (fresh 0xEF31 (.line (0 :: good.bytes ++ []))).params.opcodes.distinct ∧
    (fresh 0xEF31 (.line (0 :: good.bytes ++ []))).expectedId ≠ 0x0000 ∧
    busyBit good.st = false ∧ good.ident ≠ (fresh 0xEF31 (.line [])).expectedId := by decide

theorem meets_ReadDeviceId : (active (.line (good.bytes ++ []))).Ready ∧ busyBit good.st = false := ⟨active_ready _, by decide⟩

theorem meets_ReadUniqueId :
    (active (.line (0 :: 0 :: [0, 0, 0, 0, 0] ++ (#v[1, 2, 3, 4, 5, 6, 7, 8] : Vector Byte 8).toList ++ []))).Ready ∧
      busyBit 0 = false ∧ [(0 : Byte), 0, 0, 0, 0].length = 5 := ⟨active_ready _, by decide, rfl⟩

theorem meets_FoundTrue :
    (active (.line (0 :: (List.replicate 10 good).flatMap Sample.bytes ++ []))).Ready ∧ (List.replicate 10 good).length = 10 ∧
      (List.replicate 10 good).getLast? = some good ∧
      (∀ m ∈ List.replicate 10 good, busyBit m.st = false ∧ m.ident = good.ident) ∧ good.ident ≠ 0x0000 ∧ good.ident ≠ 0xFFFF :=
  ⟨active_ready _, by decide, by decide, by decide, by decide, by decide⟩

/-- The first sample bad (it is its own reference), and the tenth: all ones, zero, or another identifier. -/
theorem meets_FoundFalse :
    (active (.line [])).Ready ∧ ([] : List Sample).length < 10 ∧ (List.replicate 9 good).length < 10 ∧
      (∀ m ∈ List.replicate 9 good, busyBit m.st = false ∧ m.ident = ((List.replicate 9 good).headD good).ident ∧
        m.ident ≠ 0x0000 ∧ m.ident ≠ 0xFFFF) ∧
      (⟨0, 0, 0, 0xFF, 0xFF⟩ : Sample).ident = 0xFFFF ∧ (⟨0, 0, 0, 0x00, 0x00⟩ : Sample).ident = 0x0000 ∧
      (⟨0, 0, 0, 0xEF, 0x31⟩ : Sample).ident ≠ ((List.replicate 9 good).headD good).ident :=
  ⟨active_ready _, by decide, by decide, by decide, by decide, by decide, by decide⟩

theorem meets_Sleep : (active (.line [0, 0xFE, 0])).Ready ∧ busyBit 0xFE = false ∧
    (active (.line [0, 0xFE, 0])).env = .line (0 :: 0xFE :: 0 :: []) := ⟨active_ready _, by decide, rfl⟩

theorem meets_Wakeup : (active (.line [0])).Ready ∧ (active (.line [0])).env = .line (0 :: []) := ⟨active_ready _, rfl⟩

theorem meets_UngatedCommands : (active (.line [0, 1])).Ready ∧ (active (.line [0, 1])).env = .line (0 :: 1 :: []) ∧
    (active (.line [0])).env = .line (0 :: []) := ⟨active_ready _, rfl, rfl⟩

theorem meets_EndSession : (active (.line [])).Ready := active_ready _

theorem meets_HostReadsUid : (active (.line [])).control = [] ∧ (waiting (.line [])).control ≠ [] := by decide

/-- The trace of bring-up's first three events. -/
def broughtUpState : State := (fresh 0 (.line [])).broughtUp

theorem broughtUp_inv : broughtUpState.Inv :=
  ⟨.idle, by decide, rfl, rfl, rfl, fun l h => by cases l <;> simp_all [Phase.level?, broughtUpState, State.broughtUp],
    fun _ => .inr (.inl rfl), fun h => absurd rfl h, rfl⟩

theorem meets_InvStep : broughtUpState.Inv ∧ ∃ t, step { broughtUpState with requests := [] } = .next t :=
  ⟨broughtUp_inv, _, rfl⟩

theorem meets_IdleReleased : broughtUpState.Inv ∧ broughtUpState.control = [] ∧ broughtUpState.session ≠ .constructed :=
  ⟨broughtUp_inv, rfl, by decide⟩

/-- The largest chip, and the smallest. -/
theorem meets_MemInvStep : (active (chipWith [(3, 0x12)] 0 0)).MemInv ∧
    (∃ t, step { active (chipWith [(3, 0x12)] 0 0) with requests := [.host ⟨10, 0, 0, 0, 0⟩] } = .next t) ∧
    { Chip.reference with flashBytes := 1 }.fits ∧ { Chip.reference with prot := 0xFC }.protLegal :=
  ⟨⟨by decide, by decide, (by decide : Chip.reference.fits), (by decide : Chip.reference.protLegal)⟩, ⟨_, rfl⟩, by decide,
    by decide⟩

theorem meets_ConfigConstant : ∃ t, step { active (.line [0]) with requests := [.host ⟨16, 0, 0, 0, 0⟩] } = .next t := ⟨_, rfl⟩

/-- An active session, and an ended one. -/
theorem meets_SessionOrder : broughtUpState.Inv ∧ broughtUpState.session = .active ∧ (∃ t, step broughtUpState = .next t) ∧
    ∃ s : State, s.Inv ∧ s.session = .ended ∧ ∃ t, step s = .next t :=
  ⟨broughtUp_inv, rfl, ⟨_, rfl⟩,
    { broughtUpState with session := .ended, trace := broughtUpState.trace ++ [.busStop] },
    ⟨.stopped, by decide, rfl, rfl, rfl,
      fun l h => by cases l <;> simp_all [Phase.level?, broughtUpState, State.broughtUp],
      fun _ => .inr (.inr rfl), fun h => absurd rfl h, rfl⟩, rfl, _, rfl⟩

/-- `readByte` at its gate, with the rest of its program to run. -/
def atGate (env : Env) : State :=
  { active env with
    latch := some (.readByte 0)
    control := gate ++ (select ++ [.xfer (.opcode .arrayReadLF) .drop] ++ sendAddr ++ [.xfer .fill .v] ++ deselect ++ [.ret .datum]) }

theorem atGate_onProgram (env : Env) : (atGate env).OnProgram :=
  .inr ⟨_, _, rfl, rfl, [.setA 0], rfl⟩

theorem meets_onProgram : (atGate (.line [])).OnProgram ∧ (atGate (.line [])).control ≠ [] ∧
    ∃ t, step (atGate (.line [])) = .next t := ⟨atGate_onProgram _, by decide, _, rfl⟩

/-- The later steps of an operation that waits. -/
theorem meets_writers_step : (atGate (.line [])).OnProgram ∧ (atGate (.line [])).running? = some (.readByte 0) ∧
    (∃ t, step (atGate (.line [])) = .next t) ∧ Instr.readByte 0 ≠ .readUniqueId ∧ Instr.readByte 0 ≠ .found ∧
    (∀ x, ¬ storesAt x (.readByte 0)) ∧ Memory.wf (atGate (.line [])).hostMem :=
  ⟨atGate_onProgram _, rfl, ⟨_, rfl⟩, by decide, by decide, fun _ h => h, by decide⟩

theorem meets_UidAndBufferWriters : (∃ t, exec .isBusy (active (.line [0, 0])) = .next t) ∧ Instr.isBusy ≠ .readUniqueId ∧
    Instr.isBusy ≠ .uidRead ∧ (∀ x, ¬ storesAt x .isBusy) ∧ Memory.wf (active (.line [])).hostMem ∧
    ¬ storesAt 0x1F (.readBytes 0 ⟨0x20, 2⟩) ∧ ¬ storesAt 0x22 (.readBytes 0 ⟨0x20, 2⟩) ∧
    ∃ t, exec (.readBytes 0 ⟨0x20, 2⟩) (active (.line [])) = .next t :=
  ⟨⟨_, rfl⟩, by decide, by decide, fun _ h => h, by decide, by simp [storesAt], by simp [storesAt], _, rfl⟩

/-- `end`, which writes none of the working registers. -/
theorem meets_RegisterWriters : (∃ t, exec .endSession (active (.line [])) = .next t) ∧
    (∃ t, exec .wakeup (active (.line [])) = .next t) ∧ (active (.line [])).params.opcodes.distinct :=
  ⟨⟨_, rfl⟩, ⟨_, rfl⟩, by decide⟩

/-- A state that waits at a gate after a busy poll: its trace and its pending micro-operations hold only the frames of status reads. -/
theorem meets_framesInv : { waiting (.line []) with trace := cycles [[(0x05, 0x00), (0x00, 0x01)]] }.FramesInv where
  params := test_params_wf
  sent := by
    intro bytes h
    obtain rfl : bytes = [0x05, 0x00] := List.mem_singleton.mp h
    exact ⟨.statusRead, by decide⟩
  pending := fun _ _ => ⟨fun bytes h => by cases h; exact ⟨.statusRead, (by decide : decodeFrame Config.params [0x05, 0x00] = _)⟩, rfl, rfl⟩

theorem meets_FramesWellFormed : (active (.line [])).control = [] ∧ (active (.line [])).params.wf ∧
    (Instr.writeBytes 0xFFFFFF ⟨0, 2⟩).wf (active (.line [])).params = true ∧
    ∃ t, exec (.writeBytes 0xFFFFFF ⟨0, 2⟩) (active (.line [])) = .next t := ⟨rfl, by decide, by decide, _, rfl⟩

theorem meets_CompositeTraces : (active (.line [])).Ready ∧ (∃ t, exec (.writeBytes 0 ⟨0, 1⟩) (active (.line [])) = .next t) ∧
    (∃ u, exec (.writeByte 0 (Memory.read (active (.line [])).hostMem 0)) (active (.line [])) = .next u) ∧
    (∃ t, exec (.regionIsEmpty 0 255) (active (.line [])) = .next t) ∧
    ∃ u, exec (.readBytes 0 ⟨0, (255 : Byte).toNat⟩) (active (.line [])) = .next u :=
  ⟨active_ready _, ⟨_, rfl⟩, ⟨_, rfl⟩, ⟨_, rfl⟩, _, rfl⟩

/-- The reference chip, unprotected, and with protection bits set. -/
theorem reference_prompt : Chip.reference.Prompt ∧ { Chip.reference with prot := 0x1C }.Prompt :=
  ⟨⟨rfl, rfl, rfl, rfl, rfl, rfl, rfl⟩, ⟨rfl, rfl, rfl, rfl, rfl, rfl, rfl⟩⟩

theorem meets_PromptReturns : Chip.reference.Prompt ∧
    ((fresh 0xEF30 (.chip Chip.reference)).control = [] ∧ (fresh 0xEF30 (.chip Chip.reference)).session = .constructed) ∧
    (active (.chip Chip.reference)).control = [] ∧ (active (.chip Chip.reference)).session = .active ∧
    (active (.chip Chip.reference)).params.opcodes.distinct :=
  ⟨reference_prompt.1, by decide⟩

theorem meets_ChipReadByte : (active (.chip Chip.reference)).Ready ∧ Chip.reference.Prompt := ⟨active_ready _, reference_prompt.1⟩

theorem meets_ChipWriteByte : (active (.chip Chip.reference)).Ready ∧ Chip.reference.Prompt ∧ Chip.reference.prot = 0 ∧
    Memory.wf Chip.reference.mem := ⟨active_ready _, reference_prompt.1, rfl, by decide⟩

/-- The last block of the address space. -/
theorem meets_ChipEraseBlock4K : (active (.chip Chip.reference)).Ready ∧ Chip.reference.Prompt ∧ Chip.reference.prot = 0 ∧
    Memory.wf Chip.reference.mem ∧ (0xFFF000 : Addr).toNat % 4096 = 0 :=
  ⟨active_ready _, reference_prompt.1, rfl, by decide, by decide⟩

/-- A chip in the middle of an erase. -/
theorem meets_ReadsKeepFlash : (active (.chip { Chip.reference with busy := 3 })).params.opcodes.distinct ∧
    { Chip.reference with busy := 3 }.gaps = .reference ∧ changesChip (.readByte 0) = false ∧
    (∃ t, exec (.readByte 0) (active (.chip { Chip.reference with busy := 3 })) = .next t) ∧
    (atGate (.chip { Chip.reference with busy := 3 })).OnProgram ∧
    (atGate (.chip { Chip.reference with busy := 3 })).running? = some (.readByte 0) ∧
    ∃ t, step (atGate (.chip { Chip.reference with busy := 3 })) = .next t :=
  ⟨by decide, rfl, rfl, ⟨_, rfl⟩, atGate_onProgram _, rfl, _, rfl⟩

end Sys2Proof.Tests
end

section
/-! PROOFS. The status operations of the dispatcher (40_dispatcher.md R140 to R144, R148, R149) in any environment: what `select()`, a
transfer, `deselect()` and `status_poll()` do whatever answers, and the operations that are one status poll and a return. -/

namespace Sys2Proof.Machine

/-! ## The primitives in any environment -/

/-- `select()` (R140). -/
theorem drain_select (ms : List Micro) (s : State) :
    drain (select ++ ms) s =
      drain ms { s with
        trace := s.trace ++ [.begin s.busCfg, .cs .low], busHeld := true, csLevel := .low, env := s.env.select } := by
  simp [select, State.driveLow, State.emit]

/-- One transfer (R142): the environment supplies some byte and becomes something; nothing else is left open. -/
theorem drain_xfer_any (o : Out) (k : Keep) (ms : List Micro) (s : State) :
    ∃ r e d, drain (.xfer o k :: ms) s =
      drain ms (k.store r { s with trace := s.trace ++ [.xfer (o.eval s) r], env := e, draws := d }) :=
  ⟨_, _, _, rfl⟩

/-- `deselect()` (R141). -/
theorem drain_deselect_any (ms : List Micro) (s : State) :
    ∃ e d, drain (deselect ++ ms) s =
      drain ms { s with
        trace := s.trace ++ [.cs .high, .finish], busHeld := false, csLevel := .high, env := e, draws := d } :=
  ⟨(s.env.deselect s.params.opcodes s.draws).1, (s.env.deselect s.params.opcodes s.draws).2, by
    simp [deselect, State.driveHigh, State.emit]⟩

/-- A state after one status poll: the received byte in `ST`, the command cycle in the trace, the environment moved on. -/
def State.polled (s : State) (x st : Byte) (e : Env) (d : Nat) : State :=
  { s with st := st, env := e, draws := d, trace := s.trace ++ pollCycle s x st }

/-- `status_poll()` (R144): exactly one command cycle, its second byte kept in `ST`, the bus released again. -/
theorem drain_statusPoll_any (ms : List Micro) (s : State) :
    ∃ x st e d, drain (statusPoll ++ ms) s =
      drain ms { s.polled x st e d with busHeld := false, csLevel := .high } := by
  simp only [statusPoll, List.append_assoc, List.cons_append, List.nil_append, drain_select]
  obtain ⟨x, e₁, d₁, hopcode⟩ := drain_xfer_any (.opcode .statusRead) .drop (.xfer .fill .st :: (deselect ++ ms))
    { s with trace := s.trace ++ [.begin s.busCfg, .cs .low], busHeld := true, csLevel := .low, env := s.env.select }
  rw [hopcode]
  obtain ⟨st, e₂, d₂, hstatus⟩ := drain_xfer_any .fill .st (deselect ++ ms) _
  rw [hstatus]
  obtain ⟨e, d, hdeselect⟩ := drain_deselect_any ms _
  rw [hdeselect]
  refine ⟨x, st, e, d, ?_⟩
  simp [State.polled, Keep.store, Out.eval, pollCycle, cycle, Opcodes.byte]

/-! ## Operations that are one status poll and a return -/

/-- A return from an accepted operation that has released the bus leaves the end of an operation (R268, R270). -/
theorem drain_ret_released (r : Ret) (i : Instr) (t : State) :
    drain [.ret r] { t with latch := some i, result := none, busHeld := false, csLevel := .high } =
      t.returned (r.eval t) := by
  cases r <;> rfl

/-- Outside `active` every instruction but bring-up is refused (R253). -/
theorem exec_outside_active {i : Instr} {s : State} (hi : i ≠ .initDevice) (hs : s.session ≠ .active) :
    exec i s = .refused (.outsideLifecycle s.session) := by
  rw [exec_eq_run, run_outside]
  rw [Bool.eq_false_iff, Ne, permitted_iff]
  exact fun h => h.elim (fun h => hi h.2) (fun h => hs h.1)

section
variable {i : Instr} {r : Ret} {s : State}

/-- Such an operation in any environment: one status poll, and the value its return reads off the state after it. -/
theorem exec_statusPoll_ret (hs : s.Ready) (hi : i ≠ .initDevice)
    (hprog : programOf s.params s.expectedId i = statusPoll ++ [.ret r]) :
    ∃ x st e d, exec i s = .next ((s.polled x st e d).returned (r.eval (s.polled x st e d))) := by
  obtain ⟨x, st, e, d, hpoll⟩ := drain_statusPoll_any [.ret r] { s with latch := some i, result := none }
  refine ⟨x, st, e, d, ?_⟩
  rw [exec_of_ready hs hi, hprog, hpoll, ← drain_ret_released r i]
  rfl

/-- Such an operation on a line that answers the poll with `x` and `st`. -/
theorem exec_statusPoll_ret_line {x st : Byte} {rest : List Byte} (hs : s.Ready) (hi : i ≠ .initDevice)
    (hprog : programOf s.params s.expectedId i = statusPoll ++ [.ret r]) (henv : s.env = .line (x :: st :: rest)) :
    exec i s = .next ((s.polled x st (.line rest) s.draws).returned (r.eval (s.polled x st (.line rest) s.draws))) := by
  rw [exec_of_ready hs hi, hprog, drain_statusPoll_line (by exact henv), ← drain_ret_released r i]
  rfl

end

/-! ## The obligations -/

/-- Settles O15: `isBusy` is one status poll, whose return reads bit 0 of `ST`. -/
theorem isBusy : Obligations.IsBusy := fun _ =>
  ⟨fun hs => exec_statusPoll_ret (i := .isBusy) (r := .busy) hs (by decide) rfl,
    fun _ _ _ hs henv => exec_statusPoll_ret_line (i := .isBusy) (r := .busy) hs (by decide) rfl henv,
    exec_outside_active (by decide)⟩

/-- Settles O16: `readStatusRegister` is one status poll, whose return reads the whole of `ST`. -/
theorem readStatusRegister : Obligations.ReadStatusRegister := fun _ =>
  ⟨fun hs => exec_statusPoll_ret (i := .readStatusRegister) (r := .status) hs (by decide) rfl,
    fun _ _ _ hs henv => exec_statusPoll_ret_line (i := .readStatusRegister) (r := .status) hs (by decide) rfl henv,
    exec_outside_active (by decide)⟩

end Sys2Proof.Machine
end

section
/-! PROOFS. The lifecycle operations (44_lifecycle.md): the command cycle of a wake (R115, R220) in any environment and on a line, and
the operation that is this cycle and a return. -/

namespace Sys2Proof.Machine

/-! ## The command cycle of a wake -/

/-- No gate precedes the cycle, so it ends whatever the environment answers (R220). -/
theorem drain_wakeCycle_any (p : Params) (ms : List Micro) (s : State) :
    ∃ r e d, drain (wakeCycle p ++ ms) s =
      drain ms { s with
        trace := s.trace ++ frameCycle s .wakeCmd [r], busHeld := false, csLevel := .high, env := e, draws := d } := by
  simp only [wakeCycle, dispatchPlain_wake, List.append_assoc, List.cons_append, List.nil_append, drain_select]
  obtain ⟨r, e₁, d₁, hopcode⟩ := drain_xfer_any (.opcode .wake) .drop (deselect ++ ms)
    { s with trace := s.trace ++ [.begin s.busCfg, .cs .low], busHeld := true, csLevel := .low, env := s.env.select }
  rw [hopcode]
  obtain ⟨e, d, hdeselect⟩ := drain_deselect_any ms _
  rw [hdeselect]
  refine ⟨r, e, d, ?_⟩
  simp [Keep.store, Out.eval, frameCycle, cycle, encodeFrame, Opcodes.byte]

/-- On a line the cycle takes one byte of the script and draws nothing. -/
theorem drain_wakeCycle_line (p : Params) (ms : List Micro) {s : State} {r : Byte} {rest : List Byte}
    (henv : s.env = .line (r :: rest)) :
    drain (wakeCycle p ++ ms) s =
      drain ms { s with
        trace := s.trace ++ frameCycle s .wakeCmd [r], busHeld := false, csLevel := .high, env := .line rest } := by
  rw [wakeCycle, List.append_assoc, drain_wake_line p henv, drain_deselect_line rfl]
  simp [State.dispatched, frameCycle, cycle, encodeFrame, Opcodes.byte]

/-! ## The obligation -/

/-- Settles O41: `wakeup` is the ungated command cycle of a wake, then a return that writes no register. -/
theorem wakeup : Obligations.Wakeup := by
  intro s hs
  have hexec : exec .wakeup s = .next (drain (wakeCycle s.params ++ [.ret .done])
      { s with latch := some .wakeup, result := none }) := exec_of_ready hs (by decide)
  constructor
  · obtain ⟨r, e, d, hwake⟩ :=
      drain_wakeCycle_any s.params [.ret .done] { s with latch := some .wakeup, result := none }
    refine ⟨r, e, d, ?_⟩
    rw [hexec, hwake]
    rfl
  · intro r rest henv
    rw [hexec, drain_wakeCycle_line s.params [.ret .done] (by exact henv)]
    rfl

end Sys2Proof.Machine
end

section
/-! PROOFS. The encodings (30_encoding.md): the address codec, what each part of the frame decoder accepts, the round trips between
instructions and their requests, and what a host request decodes to. -/

namespace Sys2Proof

/-! ## The address codec (R116) -/

/-- The bits of a joined address, a byte at a time. -/
theorem getLsbD_joinAddr (a2 a1 a0 : Byte) (i : Nat) :
    (joinAddr a2 a1 a0).getLsbD i =
      if i < 8 then a0.getLsbD i else if i < 16 then a1.getLsbD (i - 8) else a2.getLsbD (i - 16) := by
  refine (BitVec.getLsbD_append (x := a2 ++ a1) (y := a0)).trans ?_
  rw [BitVec.getLsbD_append, Nat.sub_sub]
  split_ifs <;> first | rfl | omega

/-- The three bytes of an address, joined again, are the address. -/
theorem joinAddr_addrBytes (a : Addr) : joinAddr (addrHigh a) (addrMid a) (addrLow a) = a := by
  ext i hi
  rw [← BitVec.getLsbD_eq_getElem hi, getLsbD_joinAddr]
  simp only [addrHigh, addrMid, addrLow, BitVec.getLsbD_extractLsb']
  rw [← BitVec.getLsbD_eq_getElem hi]
  grind

/-- The bytes of a joined address are the three it was joined from. -/
theorem addrBytes_joinAddr (a2 a1 a0 : Byte) : addrBytes (joinAddr a2 a1 a0) = [a2, a1, a0] := by
  simp only [addrBytes, List.cons.injEq, and_true]
  refine ⟨?_, ?_, ?_⟩ <;> ext i hi <;>
    simp [addrHigh, addrMid, addrLow, BitVec.getElem_extractLsb', getLsbD_joinAddr] <;> grind

/-! ## The parts of a frame: each accepts exactly what the encoder writes -/

theorem withAddr_addrBytes (opc : Byte) (a : Addr) (body : List Byte) (k : Addr → List Byte → Except DecodeError Instr) :
    withAddr opc (addrBytes a ++ body) k = k a body := by
  simp [withAddr, addrBytes, joinAddr_addrBytes]

theorem withAddr_ok {opc : Byte} {rest : List Byte} {k : Addr → List Byte → Except DecodeError Instr} {i : Instr}
    (h : withAddr opc rest k = .ok i) : ∃ a body, rest = addrBytes a ++ body ∧ k a body = .ok i := by
  unfold withAddr at h
  split at h
  next a2 a1 a0 body => exact ⟨joinAddr a2 a1 a0, body, by rw [addrBytes_joinAddr]; rfl, h⟩
  · cases h

theorem onlyFill_replicate (p : Params) (opc : Byte) (k : Nat) (i : Instr) :
    onlyFill p opc k (List.replicate k p.fill) i = .ok i := by
  simp [onlyFill]

theorem onlyFill_ok {p : Params} {opc : Byte} {k : Nat} {rest : List Byte} {i j : Instr}
    (h : onlyFill p opc k rest i = .ok j) : rest = List.replicate k p.fill ∧ j = i := by
  unfold onlyFill at h
  split_ifs at h with hlen hall
  cases h
  exact ⟨List.eq_replicate_iff.mpr ⟨hlen, fun b hb => by simpa using List.all_eq_true.mp hall b hb⟩, rfl⟩

theorem addrAlone_addrBytes (opc : Byte) (a : Addr) (i : Addr → Instr) : addrAlone opc (addrBytes a) i = .ok (i a) := by
  have := withAddr_addrBytes opc a [] fun a body => if body = [] then .ok (i a) else .error (.badFrameLength opc)
  simpa [addrAlone] using this

theorem addrAlone_ok {opc : Byte} {rest : List Byte} {i : Addr → Instr} {j : Instr}
    (h : addrAlone opc rest i = .ok j) : ∃ a, rest = addrBytes a ∧ j = i a := by
  obtain ⟨a, body, rfl, hbody⟩ := withAddr_ok h
  split_ifs at hbody with hnil
  cases hbody
  exact ⟨a, by simp [hnil], rfl⟩

/-! ## Whole frames -/

/-- A frame whose rest decodes under a command is the frame of a well-formed instruction of that command. -/
theorem decodeBody_ok {p : Params} {opc : Byte} {w : Wire} {rest : List Byte} {i : Instr} (h : decodeBody p opc w rest = .ok i) :
    encodeFrame p i = p.opcodes.byte w :: rest ∧ i.wf p = true ∧ i.wire? = some w := by
  cases w <;> simp only [decodeBody] at h
  case arrayReadLF =>
    obtain ⟨a, body, rfl, hbody⟩ := withAddr_ok h
    obtain ⟨rfl, rfl⟩ := onlyFill_ok hbody
    exact ⟨rfl, rfl, rfl⟩
  case arrayRead =>
    obtain ⟨a, body, rfl, hbody⟩ := withAddr_ok h
    split at hbody
    · cases hbody
    next b more =>
      split_ifs at hbody with hfits
      obtain ⟨hfill, rfl⟩ := onlyFill_ok hbody
      refine ⟨?_, by simpa [Instr.wf] using hfits, rfl⟩
      rw [hfill]
      simp [encodeFrame, Opcodes.byte, List.replicate_succ]
  case pageProgram =>
    obtain ⟨a, d, rfl, hbody⟩ := withAddr_ok h
    split_ifs at hbody with hnil hpage
    cases hbody
    exact ⟨rfl, by simpa [Instr.wf, Nat.one_le_iff_ne_zero] using ⟨hnil, hpage⟩, rfl⟩
  case blockErase4K | blockErase32K | blockErase64K =>
    obtain ⟨a, rfl, rfl⟩ := addrAlone_ok h
    exact ⟨rfl, rfl, rfl⟩
  case statusWrite =>
    split at h
    next v =>
      split_ifs at h with hv
      cases h
      exact ⟨rfl, by simpa [Instr.wf] using hv, rfl⟩
    · cases h
  all_goals
    obtain ⟨rfl, rfl⟩ := onlyFill_ok h
    exact ⟨rfl, rfl, rfl⟩

/-- The frame of a well-formed wire command decodes to the command. -/
theorem decodeFrame_encodeFrame {p : Params} {i : Instr} {w : Wire} (hp : p.opcodes.distinct) (hwire : i.wire? = some w)
    (hwf : i.wf p = true) : decodeFrame p (encodeFrame p i) = .ok i := by
  suffices ∃ rest, encodeFrame p i = p.opcodes.byte w :: rest ∧ decodeBody p (p.opcodes.byte w) w rest = .ok i by
    obtain ⟨rest, henc, hbody⟩ := this
    rw [henc, decodeFrame, Machine.Opcodes.find?_byte hp]
    exact hbody
  cases i <;> cases hwire <;> refine ⟨_, rfl, ?_⟩ <;> simp only [decodeBody]
  case arrayReadLF a =>
    exact (withAddr_addrBytes _ a [p.fill] _).trans (onlyFill_replicate p _ 1 _)
  case arrayRead a n =>
    have hfits : lengthFits p n := by simpa [Instr.wf] using hwf
    show withAddr _ (addrBytes a ++ [p.fill] ++ List.replicate n p.fill) _ = _
    rw [List.append_assoc, withAddr_addrBytes]
    simpa [hfits, List.replicate_succ] using onlyFill_replicate p _ (n + 1) _
  case pageProgram a d =>
    obtain ⟨hpos, hpage⟩ : 1 ≤ d.length ∧ staysInPage a d.length := by simpa [Instr.wf] using hwf
    show withAddr _ (addrBytes a ++ d) _ = _
    rw [withAddr_addrBytes, if_neg (List.length_pos_iff.mp hpos), if_pos hpage]
  case blockErase4KCmd a | blockErase32KCmd a | blockErase64KCmd a => exact addrAlone_addrBytes _ a _
  case statusWrite v =>
    have hv : v = 0x00 := by simpa [Instr.wf] using hwf
    simp [hv]
  all_goals exact onlyFill_replicate p _ _ _

/-- Settles O3: the first byte names the command, and its format fixes every byte that follows. -/
theorem decodeFrameSound : Obligations.DecodeFrameSound := by
  intro p bytes i h
  unfold decodeFrame at h
  split at h
  · cases h
  next opc rest =>
    split at h
    · cases h
    next w hw =>
      obtain ⟨henc, hwf, hwire⟩ := decodeBody_ok h
      exact ⟨by rw [henc, Machine.Opcodes.byte_of_find? hw], hwf, by rw [hwire]; rfl⟩

/-! ## Host requests -/

theorem withLength_ok {p : Params} {len : Nat} {i j : Instr} (h : withLength p len i = .ok j) : lengthFits p len ∧ j = i := by
  unfold withLength at h
  split_ifs at h with hfits
  cases h
  exact ⟨hfits, rfl⟩

/-- What a host request decodes to: an operation with its selector and its operands. -/
theorem decodeHost_ok {p : Params} {r : HostRequest} {i : Instr} (h : decodeHost p r = .ok i) :
    i.wire? = none ∧ i.sel? = some r.sel ∧ i.wf p = true ∧ Machine.carries r i := by
  have hsel {k : BitVec 5} (hk : r.sel.toNat = k.toNat) : some k = some r.sel :=
    congrArg some (BitVec.eq_of_toNat_eq hk.symm)
  unfold decodeHost at h
  split at h
  case h_4 hk | h_7 hk =>
    obtain ⟨hfits, rfl⟩ := withLength_ok h
    exact ⟨rfl, hsel hk, by simpa [Instr.wf] using hfits, rfl, rfl, rfl⟩
  case h_5 hk =>
    split_ifs at h with hle
    cases h
    exact ⟨rfl, hsel hk, rfl, rfl, by simp; omega⟩
  case h_6 hk => cases h; exact ⟨rfl, hsel hk, rfl, rfl, rfl⟩
  case h_3 hk | h_8 hk | h_9 hk | h_10 hk => cases h; exact ⟨rfl, hsel hk, rfl, rfl⟩
  case h_19 => cases h
  all_goals
    rename_i hk
    cases h
    exact ⟨rfl, hsel hk, rfl, trivial⟩

/-- A request with an assigned selector decodes, if its length fits the operation (R121). -/
theorem decodeHost_total {p : Params} {r : HostRequest} (hsel : r.sel.toNat < 18) (hlen : r.sel = 3 ∨ r.sel = 6 → lengthFits p r.len)
    (hregion : r.sel = 4 → r.len < 256) : ∃ i, decodeHost p r = .ok i := by
  have eq_of {k : BitVec 5} (hk : r.sel.toNat = k.toNat) : r.sel = k := BitVec.eq_of_toNat_eq hk
  unfold decodeHost
  split
  case h_4 hk => exact ⟨_, if_pos (hlen (.inl (eq_of hk)))⟩
  case h_5 hk => exact ⟨_, if_pos (Nat.le_of_lt_succ (hregion (eq_of hk)))⟩
  case h_7 hk => exact ⟨_, if_pos (hlen (.inr (eq_of hk)))⟩
  case h_19 => grind
  all_goals exact ⟨_, rfl⟩

/-- Selectors 18 to 31 name no operation (R122). -/
theorem decodeHost_unassigned (p : Params) {r : HostRequest} (h : 18 ≤ r.sel.toNat) :
    decodeHost p r = .error (.unknownSelector r.sel) := by
  unfold decodeHost
  split
  case h_19 => rfl
  all_goals exfalso; omega

/-- The request of a well-formed host operation decodes to the operation. -/
theorem decode_encode_host {p : Params} {i : Instr} (hwire : i.wire? = none) (hwf : i.wf p = true) :
    decode p (encode p i) = .ok i := by
  cases i <;> first | rfl | cases hwire
  case readBytes a span | writeBytes a span => exact if_pos (by simpa [Instr.wf] using hwf)
  case regionIsEmpty a len =>
    have : len.toNat ≤ 255 := Nat.le_of_lt_succ len.isLt
    simp [encode, Instr.sel?, decode, decodeHost, Instr.operands, this]

/-! ## The obligations -/

/-- Settles O2: a host operation comes back by its selector, a wire command by its frame. -/
theorem decodeEncode : Obligations.DecodeEncode := by
  intro p i hp hwf
  cases hwire : i.wire? with
  | none => exact decode_encode_host hwire hwf
  | some w =>
    have hframe : encode p i = .frame (encodeFrame p i) := by cases i <;> first | rfl | cases hwire
    rw [hframe]
    exact decodeFrame_encodeFrame hp hwire hwf

/-- Settles O4: each selector's branch of the decoder. -/
theorem decodeHostSound : Obligations.DecodeHostSound := by
  intro p r _
  refine ⟨fun i h => decodeHost_ok h, ?_, ?_, decodeHost_total⟩
  · rintro (hsel | hsel) hlen <;> simp [decodeHost, hsel, withLength, hlen]
  · intro hsel hlen
    simp [decodeHost, hsel, Nat.lt_of_succ_le hlen]

/-- Settles O1: closed words and frames, evaluated. -/
theorem decodingSanity : Obligations.DecodingSanity := by
  unfold Obligations.DecodingSanity
  decide

end Sys2Proof
end

section
/-! PROOFS. The shape of a program: every operation is a list of blocks, each a gate, a command cycle that begins with an opcode, or
one other line of pseudocode. An operation can wait or return only at the end of a block, so a run is a run of blocks. -/

namespace Sys2Proof.Machine

/-! ## Blocks -/

/-- A piece of an operation. -/
inductive Block where
  /-- `gate()` (40_dispatcher.md R145), one turn. -/
  | gate
  /-- One command cycle: `select()`, the opcode, the transfers that follow it, `deselect()`. -/
  | cycle (w : Wire) (body : List (Out × Keep))
  /-- Any other line. -/
  | line (m : Micro)

/-- The transfers after an opcode. -/
def transfers (body : List (Out × Keep)) : List Micro := body.map fun t => .xfer t.1 t.2

/-- A block's micro-operations. -/
def Block.micros : Block → List Micro
  | .gate => Machine.gate
  | .cycle w body => select ++ .xfer (.opcode w) .drop :: transfers body ++ deselect
  | .line m => [m]

/-- The micro-operations of blocks in a row. -/
def micros (bs : List Block) : List Micro := bs.flatMap Block.micros

@[simp] theorem micros_nil : micros [] = [] := rfl
@[simp] theorem micros_cons (b : Block) (bs : List Block) : micros (b :: bs) = b.micros ++ micros bs := rfl
@[simp] theorem micros_append (bs cs : List Block) : micros (bs ++ cs) = micros bs ++ micros cs := List.flatMap_append

theorem micros_flatMap {α : Type} (f : α → List Block) (xs : List α) :
    micros (xs.flatMap f) = xs.flatMap fun x => micros (f x) := List.flatMap_assoc

theorem statusPoll_eq : statusPoll = (Block.cycle .statusRead [(.fill, .st)]).micros := rfl

/-- The address bytes (R143). -/
def addrBody : List (Out × Keep) := [(.addrHigh, .drop), (.addrMid, .drop), (.addrLow, .drop)]

/-- `dispatch(opc, false)` with the rest of its command cycle (R146). -/
def plainBlocks (p : Params) (w : Wire) (body : List (Out × Keep)) : List Block :=
  (if p.opcodes.byte w = p.opcodes.wake then [] else [.gate]) ++ [.cycle w body]

/-- `dispatch(opc, true)` with the rest of its command cycle (R146). -/
def writeBlocks (p : Params) (w : Wire) (body : List (Out × Keep)) : List Block :=
  plainBlocks p .writeEnable [] ++ plainBlocks p w body

theorem micros_plainBlocks (p : Params) (w : Wire) (body : List (Out × Keep)) :
    micros (plainBlocks p w body) = dispatchPlain p w ++ transfers body ++ deselect := by
  unfold plainBlocks dispatchPlain
  split <;> simp [Block.micros]

theorem micros_writeBlocks (p : Params) (w : Wire) (body : List (Out × Keep)) :
    micros (writeBlocks p w body) = dispatchWrite p w ++ transfers body ++ deselect := by
  simp [writeBlocks, micros_plainBlocks, dispatchWrite, transfers]

/-- With distinct opcodes every command but the wake is gated. -/
theorem plainBlocks_gated {p : Params} (hp : p.opcodes.distinct) {w : Wire} (hw : w ≠ .wake) (body : List (Out × Keep)) :
    plainBlocks p w body = [.gate, .cycle w body] := by
  have : p.opcodes.byte w ≠ p.opcodes.wake := fun hb => hw (Opcodes.byte_injective hp (w := .wake) hb)
  simp [plainBlocks, this]

theorem plainBlocks_wake (p : Params) (body : List (Out × Keep)) : plainBlocks p .wake body = [.cycle .wake body] := by
  simp [plainBlocks, Opcodes.byte]

theorem writeBlocks_gated {p : Params} (hp : p.opcodes.distinct) {w : Wire} (hw : w ≠ .wake) (body : List (Out × Keep)) :
    writeBlocks p w body = [.gate, .cycle .writeEnable [], .gate, .cycle w body] := by
  rw [writeBlocks, plainBlocks_gated hp (by decide), plainBlocks_gated hp hw]
  rfl

/-! ## The blocks of each operation -/

/-- What follows the opcode of an `ARRAY_READ` at the address in `A` (30_encoding.md R103). -/
def readBody (keeps : List Keep) : List (Out × Keep) := addrBody ++ (.fill, .drop) :: keeps.map (.fill, ·)

/-- An `ARRAY_READ` at the address in `A`. -/
def readBlocks (p : Params) (keeps : List Keep) : List Block := plainBlocks p .arrayRead (readBody keeps)

/-- An identifier read (R112). -/
def idBlocks (p : Params) : List Block := plainBlocks p .idRead [(.fill, .hi), (.fill, .lo)] ++ [.line .setIdr]

/-- What follows the opcode of a unique-identifier read (R113). -/
def uidBody : List (Out × Keep) := List.replicate 4 (.fill, .drop) ++ (List.finRange 8).map (.fill, .uid ·)

/-- A unique-identifier read. -/
def uidBlocks (p : Params) : List Block := plainBlocks p .uidRead uidBody ++ [.line .setUidValid]

/-- A page program at the address in `A` (R104). -/
def programBlocks (p : Params) (payload : List Out) : List Block :=
  writeBlocks p .pageProgram (addrBody ++ payload.map (·, .drop))

/-- One turn of the planner's loop (42_write.md R187). -/
def chunkBlocks (p : Params) (buf : BufRef) (size : Nat) : List Block :=
  .line .takeChunk :: programBlocks p (bufPayload buf size) ++ [.line .advance]

/-- A status write (R110). -/
def statusWriteBlocks (p : Params) (v : Byte) : List Block := writeBlocks p .statusWrite [(.byte v, .drop)]

/-- One turn of the loop of `found` (44_lifecycle.md R218). -/
def sampleBlocks (p : Params) (k : BitVec 4) : List Block := .line (.setCnt k) :: idBlocks p ++ [.line .judge]

/-- What an instruction runs, up to its return. -/
def bodyBlocks (p : Params) (expected : Ident) : Instr → List Block
  | .arrayReadLF addr | .readByte addr =>
    .line (.setA addr) :: plainBlocks p .arrayReadLF (addrBody ++ [(.fill, .v)])
  | .arrayRead addr n => .line (.setA addr) :: readBlocks p (keepInBuf ⟨commandBuf, n⟩)
  | .readBytes addr span => .line (.setA addr) :: readBlocks p (keepInBuf span)
  | .regionIsEmpty addr len => .line (.setA addr) :: .line .setAllFF :: readBlocks p (List.replicate len.toNat .allFF)
  | .pageProgram addr payload => .line (.setA addr) :: programBlocks p (payload.map .byte)
  | .writeByte addr value => .line (.setA addr) :: programBlocks p [.byte value]
  | .writeBytes addr span =>
    .line (.setA addr) :: .line (.planStart span.len) :: (plan addr span.len).flatMap fun c => chunkBlocks p span.buf c.size
  | .blockErase4KCmd addr | .eraseBlock4K addr => .line (.setA addr) :: writeBlocks p .blockErase4K addrBody
  | .blockErase32KCmd addr | .eraseBlock32K addr => .line (.setA addr) :: writeBlocks p .blockErase32K addrBody
  | .blockErase64KCmd addr | .eraseBlock64K addr => .line (.setA addr) :: writeBlocks p .blockErase64K addrBody
  | .chipEraseCmd | .eraseChip => writeBlocks p .chipErase []
  | .statusRead | .isBusy | .readStatusRegister => [.cycle .statusRead [(.fill, .st)]]
  | .statusWrite v => statusWriteBlocks p v
  | .writeEnable => plainBlocks p .writeEnable []
  | .idRead | .readDeviceId => idBlocks p
  | .uidRead | .readUniqueId => uidBlocks p
  | .sleepCmd | .sleep => plainBlocks p .sleep []
  | .wakeCmd | .wakeup => plainBlocks p .wake []
  | .initDevice =>
    [.line .pinOut, .line .busStart, .line .csHigh] ++ plainBlocks p .wake []
      ++ (if checkDisabled expected then [] else idBlocks p ++ [.line .checkId]) ++ statusWriteBlocks p 0x00
  | .found => plainBlocks p .wake [] ++ (List.range 10).flatMap fun i => sampleBlocks p (BitVec.ofNat 4 (i + 1))
  | .endSession => [.line .busStop]

/-- The value an instruction returns. -/
def retOf : Instr → Ret
  | .arrayReadLF _ | .readByte _ => .datum
  | .arrayRead _ n => .buffer n
  | .readBytes _ span => .buffer span.len
  | .regionIsEmpty _ _ => .allFF
  | .statusRead | .readStatusRegister => .status
  | .isBusy => .busy
  | .idRead | .readDeviceId => .ident
  | .uidRead | .readUniqueId => .uid
  | .initDevice | .found => .const true
  | .pageProgram _ _ | .writeByte _ _ | .writeBytes _ _ | .blockErase4KCmd _ | .eraseBlock4K _ | .blockErase32KCmd _
  | .eraseBlock32K _ | .blockErase64KCmd _ | .eraseBlock64K _ | .chipEraseCmd | .eraseChip | .statusWrite _ | .writeEnable
  | .sleepCmd | .sleep | .wakeCmd | .wakeup | .endSession => .done

/-- All of an instruction's blocks. -/
def blocksOf (p : Params) (expected : Ident) (i : Instr) : List Block :=
  bodyBlocks p expected i ++ [.line (.ret (retOf i))]

section
variable (p : Params)

theorem micros_readBlocks (keeps : List Keep) : micros (readBlocks p keeps) = readCycle p keeps := by
  simp [readBlocks, readBody, micros_plainBlocks, readCycle, addrBody, sendAddr, transfers]

theorem micros_idBlocks : micros (idBlocks p) = idReadCycle p := by
  simp [idBlocks, micros_plainBlocks, idReadCycle, transfers, Block.micros]

theorem micros_uidBlocks : micros (uidBlocks p) = uidReadCycle p := by
  simp [uidBlocks, uidBody, micros_plainBlocks, uidReadCycle, transfers, Block.micros]

theorem micros_programBlocks (payload : List Out) : micros (programBlocks p payload) = programCycle p payload := by
  simp [programBlocks, micros_writeBlocks, programCycle, transfers, addrBody, sendAddr]

theorem micros_chunkBlocks (buf : BufRef) (size : Nat) : micros (chunkBlocks p buf size) = chunkTurn p buf size := by
  simp [chunkBlocks, micros_programBlocks, chunkTurn, Block.micros]

theorem micros_statusWriteBlocks (v : Byte) : micros (statusWriteBlocks p v) = statusWriteCycle p v := by
  simp [statusWriteBlocks, micros_writeBlocks, statusWriteCycle, transfers]

theorem micros_sampleBlocks (k : BitVec 4) : micros (sampleBlocks p k) = sampleTurn p k := by
  simp [sampleBlocks, micros_idBlocks, sampleTurn, Block.micros]

/-- The program of an instruction is its blocks. -/
theorem programOf_eq (expected : Ident) (i : Instr) : programOf p expected i = micros (blocksOf p expected i) := by
  cases i <;>
    simp [programOf, blocksOf, bodyBlocks, retOf, Block.micros, micros_plainBlocks, micros_writeBlocks, micros_readBlocks,
      micros_idBlocks, micros_uidBlocks, micros_programBlocks, micros_chunkBlocks, micros_statusWriteBlocks,
      micros_sampleBlocks, micros_flatMap, transfers, addrBody, sendAddr, readLFCycle, blockEraseCycle, statusPoll, wakeCycle, sleepCycle,
      progArrayReadLF, progArrayRead, progPageProgram, progBlockErase, progChipErase, progStatusRead, progStatusWrite,
      progWriteEnable, progReadDeviceId, progReadUniqueId, progSleep, progWakeup, progIsBusy, progReadStatusRegister,
      progReadByte, progReadBytes, progRegionIsEmpty, progWriteByte, progWriteBytes, progInit, progFound, progEnd]
  case initDevice => split <;> simp [micros_idBlocks, Block.micros]

end

/-! ## A straight run -/

/-- Each micro-operation goes on with the next line, from one state to another. -/
inductive Passes : List Micro → State → State → Prop
  | nil (s : State) : Passes [] s s
  | cons {m : Micro} {ms : List Micro} {s u t : State} : perform m s = (u, .go) → Passes ms u t → Passes (m :: ms) s t

theorem drain_passes {ms : List Micro} {s t : State} (h : Passes ms s t) (rest : List Micro) :
    drain (ms ++ rest) s = drain rest t := by
  induction h with
  | nil => rfl
  | cons hm _ ih => rw [List.cons_append, drain_go hm, ih]

theorem passes_append {ms ns : List Micro} {s t : State} (h : Passes (ms ++ ns) s t) :
    ∃ u, Passes ms s u ∧ Passes ns u t := by
  induction ms generalizing s with
  | nil => exact ⟨s, .nil s, h⟩
  | cons m ms ih =>
    cases h with
    | cons hm hrest =>
      obtain ⟨u, hu, ht⟩ := ih hrest
      exact ⟨u, .cons hm hu, ht⟩

/-- Only the gate's test goes back to the head of its loop, and leaves the state as it is. -/
theorem perform_again {m : Micro} {s t : State} (h : perform m s = (t, .again)) :
    m = .gateTest ∧ busyBit s.st = true ∧ t = s := by
  cases m
  case gateTest =>
    cases hst : busyBit s.st <;> simp [perform, hst] at h ⊢
    exact h.symm
  case checkId | judge => simp only [perform] at h; split at h <;> cases h
  all_goals cases h

/-- Only a return and a failed test end an operation: the latch is emptied, a result given. -/
theorem perform_halt {m : Micro} {s t : State} (h : perform m s = (t, .halt)) :
    t.latch = none ∧ t.result.isSome = true ∧ t.requests = s.requests := by
  cases m
  case ret => cases h; exact ⟨rfl, rfl, rfl⟩
  case checkId | judge =>
    simp only [perform] at h
    split at h <;> cases h
    exact ⟨rfl, rfl, rfl⟩
  case gateTest => simp only [perform] at h; split at h <;> cases h
  all_goals cases h

/-- What goes on leaves the latch, the result and the requests alone. -/
theorem perform_go {m : Micro} {s t : State} (h : perform m s = (t, .go)) :
    t.latch = s.latch ∧ t.result = s.result ∧ t.requests = s.requests := by
  cases m
  case ret => cases h
  case xfer o k => cases h; cases k <;> exact ⟨rfl, rfl, rfl⟩
  case checkId | judge | gateTest =>
    simp only [perform] at h
    split at h <;> cases h
    exact ⟨rfl, rfl, rfl⟩
  all_goals cases h; exact ⟨rfl, rfl, rfl⟩

/-- A straight run leaves the operation latched and its result open, and takes no request. -/
theorem Passes.latched {ms : List Micro} {s t : State} (h : Passes ms s t) :
    t.latch = s.latch ∧ t.result = s.result ∧ t.requests = s.requests := by
  induction h with
  | nil => exact ⟨rfl, rfl, rfl⟩
  | cons hm _ ih =>
    obtain ⟨hl, hr, hq⟩ := ih
    obtain ⟨hl', hr', hq'⟩ := perform_go hm
    exact ⟨hl.trans hl', hr.trans hr', hq.trans hq'⟩

theorem Passes.config {ms : List Micro} {s t : State} (h : Passes ms s t) : t.params = s.params ∧ t.expectedId = s.expectedId := by
  induction h with
  | nil => exact ⟨rfl, rfl⟩
  | @cons m _ s _ _ hm _ ih =>
    obtain ⟨hp, -, -, he, -⟩ := perform_config m s
    rw [hm] at hp he
    exact ⟨ih.1.trans hp, ih.2.trans he⟩

/-- The ends of a run: the micro-operations run out, a gate must poll again, or the operation returns. -/
theorem drain_cases (ms : List Micro) (s : State) :
    (∃ u, Passes ms s u ∧ drain ms s = { u with control := [], latch := none }) ∨
    (∃ ms₁ ms₂ u, ms = ms₁ ++ .gateTest :: ms₂ ∧ Passes ms₁ s u ∧ busyBit u.st = true ∧
      drain ms s = { u with control := gate ++ ms₂ }) ∨
    ∃ ms₁ m ms₂ u t, ms = ms₁ ++ m :: ms₂ ∧ Passes ms₁ s u ∧ perform m u = (t, .halt) ∧
      drain ms s = { t with control := [] } := by
  induction ms generalizing s with
  | nil => exact .inl ⟨s, .nil s, rfl⟩
  | cons m ms ih =>
    rcases hm : perform m s with ⟨s', f⟩
    cases f with
    | go =>
      rw [drain_go hm]
      obtain ⟨u, hu, he⟩ | ⟨ms₁, ms₂, u, rfl, hu, hb, he⟩ | ⟨ms₁, m', ms₂, u, t, rfl, hu, ht, he⟩ := ih s'
      · exact .inl ⟨u, .cons hm hu, he⟩
      · exact .inr (.inl ⟨m :: ms₁, ms₂, u, rfl, .cons hm hu, hb, he⟩)
      · exact .inr (.inr ⟨m :: ms₁, m', ms₂, u, t, rfl, .cons hm hu, ht, he⟩)
    | again =>
      obtain ⟨rfl, hb, rfl⟩ := perform_again hm
      exact .inr (.inl ⟨[], ms, s', rfl, .nil _, hb, drain_again hm ms⟩)
    | halt => exact .inr (.inr ⟨[], m, ms, s, s', rfl, .nil s, hm, drain_halt hm ms⟩)

end Sys2Proof.Machine
end

section
/-! PROOFS. Where an operation can wait, and what `exec` and `step` run: `exec` runs an operation's blocks, a step that goes on with
an operation runs its blocks from one of its gates on. -/

namespace Sys2Proof.Machine

/-! ## Gates -/

theorem gateTest_notMem_cycle (w : Wire) (body : List (Out × Keep)) : .gateTest ∉ (Block.cycle w body).micros := by
  simp [Block.micros, select, transfers, deselect]

theorem gateTest_notMem_statusPoll : .gateTest ∉ statusPoll := gateTest_notMem_cycle .statusRead [(.fill, .st)]

/-- A test of the gate, among blocks, is the end of a gate. -/
theorem micros_eq_gateTest {bs : List Block} (hbs : .line .gateTest ∉ bs) {ms₁ ms₂ : List Micro}
    (h : micros bs = ms₁ ++ .gateTest :: ms₂) :
    ∃ bs₁ bs₂, bs = bs₁ ++ .gate :: bs₂ ∧ ms₁ = micros bs₁ ++ statusPoll ∧ ms₂ = micros bs₂ := by
  induction bs generalizing ms₁ with
  | nil => simp at h
  | cons b bs ih =>
    have hnext {l : List Micro} (hl : micros bs = l ++ .gateTest :: ms₂) := ih (List.not_mem_of_not_mem_cons hbs) hl
    rw [micros_cons, List.append_eq_append_iff] at h
    rcases h with ⟨l, rfl, hl⟩ | ⟨_ | ⟨m, l⟩, hl, hrest⟩
    · obtain ⟨bs₁, bs₂, rfl, rfl, rfl⟩ := hnext hl
      exact ⟨b :: bs₁, bs₂, rfl, by simp, rfl⟩
    · obtain ⟨bs₁, bs₂, -, hnil, -⟩ := hnext (l := []) hrest.symm
      exact absurd hnil.symm (by simp [statusPoll, select])
    · obtain ⟨rfl, rfl⟩ := List.cons.inj hrest
      cases b with
      | gate =>
        obtain ⟨rfl, -, rfl⟩ :=
          (List.append_cons_inj_of_notMem gateTest_notMem_statusPoll List.not_mem_nil).mp (show statusPoll ++ [_] = _ from hl)
        exact ⟨[], bs, rfl, rfl, rfl⟩
      | cycle w body => exact absurd (by rw [hl]; simp) (gateTest_notMem_cycle w body)
      | line m =>
        have hm : Micro.gateTest ∈ [m] := by rw [show [m] = _ from hl]; simp
        exact absurd (by simp [List.mem_singleton.mp hm]) hbs

section
variable {f : Block → Bool} (hgate : f .gate = true)
include hgate

/-- A predicate that gates have holds of a dispatched command when its command cycle has it. -/
theorem all_plainBlocks (p : Params) (w : Wire) (body : List (Out × Keep)) :
    (plainBlocks p w body).all f = f (.cycle w body) := by
  unfold plainBlocks
  split <;> simp [hgate]

theorem all_writeBlocks (p : Params) (w : Wire) (body : List (Out × Keep)) :
    (writeBlocks p w body).all f = (f (.cycle .writeEnable []) && f (.cycle w body)) := by
  simp [writeBlocks, all_plainBlocks hgate]

end

/-- The block is not a test of the gate by itself. -/
def Block.noTest : Block → Bool
  | .line .gateTest => false
  | _ => true

/-- No operation tests the gate outside `gate()`. -/
theorem blocksOf_noTest (p : Params) (e : Ident) (i : Instr) : (blocksOf p e i).all Block.noTest = true := by
  have hplain := all_plainBlocks (f := Block.noTest) rfl p
  have hwrite := all_writeBlocks (f := Block.noTest) rfl p
  cases i
  case initDevice =>
    simp only [blocksOf, bodyBlocks]
    split <;> simp [hplain, hwrite, Block.noTest, idBlocks, statusWriteBlocks]
  all_goals
    simp [blocksOf, bodyBlocks, hplain, hwrite, Block.noTest, readBlocks, idBlocks, uidBlocks, programBlocks, chunkBlocks,
      statusWriteBlocks, sampleBlocks]

theorem gateTest_notMem_blocksOf (p : Params) (e : Ident) (i : Instr) : .line .gateTest ∉ blocksOf p e i := fun h => by
  simpa [Block.noTest] using List.all_eq_true.mp (blocksOf_noTest p e i) _ h

theorem blocks_of_gate_suffix {ms : List Micro} {p : Params} {e : Ident} {i : Instr} (h : gate ++ ms <:+ programOf p e i) :
    ∃ bs, .gate :: bs <:+ blocksOf p e i ∧ gate ++ ms = micros (.gate :: bs) := by
  obtain ⟨pre, hpre⟩ := h
  rw [programOf_eq, gate, List.append_assoc, ← List.append_assoc] at hpre
  obtain ⟨bs₁, bs₂, hbs, -, rfl⟩ := micros_eq_gateTest (gateTest_notMem_blocksOf p e i) hpre.symm
  exact ⟨bs₂, ⟨bs₁, hbs.symm⟩, rfl⟩

theorem gate_suffix_of_blocks {bs : List Block} {p : Params} {e : Ident} {i : Instr} (h : .gate :: bs <:+ blocksOf p e i) :
    gate ++ micros bs <:+ programOf p e i := by
  obtain ⟨pre, hpre⟩ := h
  exact ⟨micros pre, by rw [programOf_eq, ← hpre, micros_append]; rfl⟩

/-! ## exec and step -/

/-- A run of an instruction's blocks, from its beginning or from one of its blocks on. -/
def Runs (i : Instr) (s t : State) : Prop :=
  ∃ bs q l r, bs <:+ blocksOf s.params s.expectedId i ∧ t = drain (micros bs) { s with requests := q, latch := l, result := r }

theorem exec_runs {i : Instr} {s t : State} (h : exec i s = .next t) : Runs i s t := by
  obtain ⟨-, -, rfl⟩ := exec_next h
  exact ⟨_, s.requests, some i, none, List.suffix_refl _, by rw [programOf_eq]⟩

/-- A step that begins an operation is `exec` of it, one that goes on with it runs from a gate of its own. -/
theorem step_runs {i : Instr} {s t : State} (hs : s.OnProgram) (hi : s.running? = some i) (h : step s = .next t) : Runs i s t := by
  obtain ⟨hc, rfl⟩ | ⟨hc, hr, -⟩ | ⟨r, rest, j, hc, hr, hd, he⟩ := step_next h
  · obtain hc' | ⟨j, ms, hj, hgate, hsuffix⟩ := hs
    · exact absurd hc' hc
    · obtain rfl : j = i := by simpa [State.running?, hgate, gate, statusPoll, select, hj] using hi
      obtain ⟨bs, hbs, hms⟩ := blocks_of_gate_suffix hsuffix
      exact ⟨_, s.requests, s.latch, s.result, hbs, by rw [← hms, ← hgate]⟩
  · simp [State.running?, hc, hr] at hi
  · obtain rfl : j = i := by simpa [State.running?, hc, hr, hd] using hi
    obtain ⟨bs, q, l, r, hbs, rfl⟩ := exec_runs he
    exact ⟨bs, q, l, r, hbs, rfl⟩

end Sys2Proof.Machine
end

section
/-! PROOFS. A step is a run of ticks (92_eei_decisions.md D19), so what every tick keeps, every step keeps; and the life of the bus trace
(60_exceptions.md R267) is such an invariant. -/

namespace Sys2Proof.Machine

/-! ## Steps and ticks -/

theorem ticks_succ {s t : State} (h : tick s = .next t) (k : Nat) : ticks (k + 1) s = ticks k t := by
  simp [ticks, h]

theorem tick_running {s : State} {m : Micro} {ms : List Micro} (h : s.control = m :: ms) : tick s = .next (advanceMicro m ms s) := by
  simp [tick, h]

/-- Ticks perform an operation that runs to its return or its next busy poll. -/
theorem ticks_drain (ms : List Micro) (s : State) (h : s.control = ms) (hms : ms ≠ []) : ∃ k, ticks k s = .next (drain ms s) := by
  induction ms generalizing s with
  | nil => exact absurd rfl hms
  | cons m ms ih =>
    have htick := tick_running h
    rcases hm : perform m s with ⟨s', f⟩
    cases f with
    | go =>
      by_cases hnil : ms = []
      · refine ⟨1, ?_⟩
        rw [ticks_succ htick, drain_go hm, hnil]
        simp [ticks, advanceMicro, hm, drain_nil]
      · have hadvance : advanceMicro m ms s = { s' with control := ms } := by simp [advanceMicro, hm, hnil]
        obtain ⟨k, hk⟩ := ih { s' with control := ms } rfl hnil
        exact ⟨k + 1, by rw [ticks_succ htick, hadvance, hk, drain_control, drain_go hm]⟩
    | again | halt =>
      refine ⟨1, ?_⟩
      rw [ticks_succ htick]
      simp [ticks, advanceMicro, hm, drain]

theorem programOf_ne_nil (p : Params) (e : Ident) (i : Instr) : programOf p e i ≠ [] := by
  obtain ⟨ms, r, h⟩ := programOf_ends p e i
  simp [h]

/-- A step is some number of ticks. -/
theorem step_ticks {s t : State} (h : step s = .next t) : ∃ k, ticks k s = .next t := by
  obtain ⟨hc, rfl⟩ | ⟨-, -, rfl⟩ | ⟨r, rest, i, hc, hr, hd, he⟩ := step_next h
  · exact ticks_drain _ s rfl hc
  · exact ⟨0, rfl⟩
  · obtain ⟨hp, -, rfl⟩ := exec_next he
    have htick : tick s = .next { s with
        requests := rest, latch := some i, result := none, control := programOf s.params s.expectedId i } := by
      simp [tick, hc, hr, hd, accept, show permitted i s.session = true from hp]
    obtain ⟨k, hk⟩ := ticks_drain _ { s with
      requests := rest, latch := some i, result := none, control := programOf s.params s.expectedId i } rfl
      (programOf_ne_nil _ _ _)
    refine ⟨k + 1, ?_⟩
    rw [ticks_succ htick, hk]
    exact congrArg _ (drain_control _ { s with requests := rest, latch := some i, result := none } _)

/-- What every tick keeps, a run of ticks keeps. -/
theorem ticks_keep {P : State → Prop} (hP : ∀ s t, P s → tick s = .next t → P t) {k : Nat} {s t : State} (hs : P s)
    (h : ticks k s = .next t) : P t := by
  induction k generalizing s with
  | zero => cases h; exact hs
  | succ k ih =>
    cases htick : tick s with
    | next u => exact ih (hP s u hs htick) (by rw [← ticks_succ htick]; exact h)
    | fault f => cases f
    | refused r => simp [ticks, htick] at h

/-- What every tick keeps, every step keeps. -/
theorem step_keeps_of_tick {P : State → Prop} (hP : ∀ s t, P s → tick s = .next t → P t) {s t : State} (hs : P s)
    (h : step s = .next t) : P t :=
  let ⟨_, hk⟩ := step_ticks h
  ticks_keep hP hs hk

theorem advanceMicro_trace (m : Micro) (ms : List Micro) (s : State) : (advanceMicro m ms s).trace = (perform m s).1.trace := by
  unfold advanceMicro
  split <;> simp_all

/-- Settles O14: a step is its ticks, and a tick performs at most one micro-operation. -/
theorem stepIsTicks : Obligations.StepIsTicks := by
  refine ⟨fun s t => step_ticks, fun s t h => ?_⟩
  obtain ⟨m, ms, -, rfl⟩ | ⟨-, -, rfl⟩ | ⟨r, rest, i, -, -, -, -, rfl⟩ := tick_next h
  · rw [advanceMicro_trace]; exact perform_trace m s
  · exact .inl rfl
  · exact .inl rfl

/-! ## The bus discipline of a program -/

theorem disciplined_transfers (body : List (Out × Keep)) (ms : List Micro) :
    disciplined .moving (transfers body ++ ms) = disciplined .moving ms := by
  induction body with
  | nil => rfl
  | cons t body ih => exact ih

/-- The block leads from an idle bus to an idle bus. -/
def Block.restful : Block → Bool
  | .gate | .cycle _ _ => true
  | .line m => m.next .idle == some .idle

theorem disciplined_restful {b : Block} (h : b.restful = true) (ms : List Micro) :
    disciplined .idle (b.micros ++ ms) = disciplined .idle ms := by
  cases b with
  | gate => rfl
  | cycle w body =>
    show disciplined .moving (transfers body ++ deselect ++ ms) = _
    rw [List.append_assoc, disciplined_transfers]
    rfl
  | line m =>
    have hnext : m.next .idle = some .idle := by simpa [Block.restful] using h
    have hret : m.isReturn = false := by cases m <;> first | rfl | cases hnext
    show disciplined .idle (m :: ms) = _
    simp [disciplined, hret, hnext]

theorem disciplined_micros {bs : List Block} (h : bs.all Block.restful = true) (ms : List Micro) :
    disciplined .idle (micros bs ++ ms) = disciplined .idle ms := by
  induction bs with
  | nil => rfl
  | cons b bs ih =>
    obtain ⟨hb, hbs⟩ := Bool.and_eq_true_iff.mp (List.all_cons.symm.trans h)
    rw [micros_cons, List.append_assoc, disciplined_restful hb, ih hbs]

section
variable (p : Params)

theorem restful_plainBlocks (w : Wire) (body : List (Out × Keep)) : (plainBlocks p w body).all Block.restful = true :=
  all_plainBlocks rfl p w body

theorem restful_writeBlocks (w : Wire) (body : List (Out × Keep)) : (writeBlocks p w body).all Block.restful = true :=
  all_writeBlocks rfl p w body

/-- In `active` every operation but the end of the session leaves the bus idle. -/
theorem restful_bodyBlocks (e : Ident) {i : Instr} (hinit : i ≠ .initDevice) (hend : i ≠ .endSession) :
    (bodyBlocks p e i).all Block.restful = true := by
  have hplain := restful_plainBlocks p
  have hwrite := restful_writeBlocks p
  cases i
  case initDevice => exact absurd rfl hinit
  case endSession => exact absurd rfl hend
  all_goals
    simp [bodyBlocks, hplain, hwrite, Block.restful, Micro.next, readBlocks, idBlocks, uidBlocks, programBlocks,
      chunkBlocks, statusWriteBlocks, sampleBlocks]

/-- Bring-up keeps the bus discipline from its first event on. -/
theorem disciplined_initDevice (e : Ident) : disciplined .fresh (programOf p e .initDevice) = true := by
  have hrest : (plainBlocks p .wake [] ++ (if checkDisabled e then [] else idBlocks p ++ [Block.line .checkId])
      ++ statusWriteBlocks p 0x00).all Block.restful = true := by
    split <;> simp [restful_plainBlocks, restful_writeBlocks, statusWriteBlocks, idBlocks, Block.restful, Micro.next]
  have := disciplined_micros hrest [.ret (.const true)]
  simp only [micros_append] at this
  rw [programOf_eq]
  simp only [blocksOf, bodyBlocks, micros_append, List.append_assoc] at this ⊢
  exact this

/-- Every other operation keeps the bus discipline between command cycles. -/
theorem disciplined_programOf (e : Ident) {i : Instr} (hi : i ≠ .initDevice) : disciplined .idle (programOf p e i) = true := by
  by_cases hend : i = .endSession
  · subst hend; rfl
  · rw [programOf_eq, blocksOf, micros_append, disciplined_micros (restful_bodyBlocks p e hi hend)]
    rfl

end

/-! ## The life of the bus trace -/

/-- The trace is a life of R267 that ends in a phase, and the lifecycle and bus registers agree with it. -/
structure Linked (s : State) (ph : Phase) : Prop where
  trace : s.phase = some ph
  session : s.session = ph.session
  busHeld : s.busHeld = ph.busHeld
  csOut : s.csOut = (ph != .fresh)
  level : ∀ l, ph.level? = some l → s.csLevel = l

theorem InPhase.linked {s : State} {ph : Phase} (h : InPhase s ph) : Linked s ph :=
  ⟨h.trace, h.session, h.busHeld, h.csOut, h.level⟩

/-- One more event of the grammar. -/
theorem lifePhase_emit {p : Params} {cs : CsId} {cfg : BusCfg} {trace : List Event} {ph : Phase}
    (h : lifePhase p cs cfg trace = some ph) (e : Event) : lifePhase p cs cfg (trace ++ [e]) = ph.next p cs cfg e := by
  rw [lifePhase, List.foldl_append, show trace.foldl _ _ = some ph from h]
  rfl

/-- A micro-operation that the discipline allows leads to the phase it names. -/
theorem perform_linked {m : Micro} {s : State} {ph ph' : Phase} (h : Linked s ph) (hm : m.next ph = some ph') :
    Linked (perform m s).1 ph' := by
  obtain ⟨htrace, hsession, hheld, hout, hlevel⟩ := h
  have hemit (e : Event) : lifePhase s.params s.csId s.busCfg (s.trace ++ [e]) = ph.next s.params s.csId s.busCfg e :=
    lifePhase_emit htrace e
  cases m <;> simp only [Micro.next] at hm
  case ret => cases hm
  case setA | setAllFF | planStart | takeChunk | advance | setIdr | setUidValid | setCnt =>
    cases hm
    exact ⟨htrace, hsession, hheld, hout, hlevel⟩
  case gateTest | checkId | judge =>
    split_ifs at hm with hph
    cases hm
    subst hph
    simp only [perform]
    try split
    all_goals exact ⟨htrace, hsession, hheld, hout, hlevel⟩
  case xfer o k =>
    split_ifs at hm with hph
    cases hm
    have hnext : ph.next s.params s.csId s.busCfg (.xfer (o.eval s) (s.exchange (o.eval s)).1) = some .moving := by
      refine if_pos (hph.imp_right fun h => ⟨h.1, ?_⟩)
      cases o <;> simp only [Out.isOpcode] at h
      case opcode w => exact Opcodes.byte_mem _ w
      all_goals exact absurd h.2 (by decide)
    have hkept : ph.session = Phase.moving.session ∧ ph.busHeld = Phase.moving.busHeld ∧ (ph != .fresh) = true ∧
        ph.level? = some .low := by
      rcases hph.imp_right And.left with rfl | rfl <;> exact ⟨rfl, rfl, rfl, rfl⟩
    obtain ⟨hs, hb, hf, hl⟩ := hkept
    refine ⟨?_, ?_, ?_, ?_, ?_⟩
    · simpa [perform, State.phase] using (hemit _).trans hnext
    · simpa [perform] using hsession.trans hs
    · simpa [perform] using hheld.trans hb
    · exact (by simp [perform] : (perform (.xfer o k) s).1.csOut = s.csOut).trans (hout.trans hf)
    · rintro l ⟨⟩
      simpa [perform] using hlevel _ hl
  case csHigh =>
    split_ifs at hm with hstarted hmoving <;> cases hm <;> subst ph
    all_goals exact ⟨hemit (.cs .high), hsession, hheld, hout, by rintro l ⟨⟩; rfl⟩
  case pinOut =>
    split_ifs at hm with hph
    cases hm; subst hph
    exact ⟨(hemit _).trans (by simp [Phase.next]), hsession, hheld, rfl, by rintro l ⟨⟩⟩
  case busStart =>
    split_ifs at hm with hph
    cases hm; subst hph
    exact ⟨hemit _, rfl, hheld, hout, by rintro l ⟨⟩⟩
  case busStop =>
    split_ifs at hm with hph
    cases hm; subst hph
    exact ⟨hemit _, rfl, hheld, hout, hlevel⟩
  case begin =>
    split_ifs at hm with hph
    cases hm; subst hph
    exact ⟨(hemit _).trans (by simp [Phase.next]), hsession, rfl, hout, hlevel⟩
  case finish =>
    split_ifs at hm with hph
    cases hm; subst hph
    exact ⟨hemit _, hsession, rfl, hout, hlevel⟩
  case csLow =>
    split_ifs at hm with hph
    cases hm; subst hph
    exact ⟨hemit _, hsession, hheld, hout, by rintro l ⟨⟩; rfl⟩

/-- Where a test or a return may stand, and what it leaves. -/
theorem next_of_flow {m : Micro} {s t : State} {f : Flow} (h : perform m s = (t, f)) (hf : f ≠ .go) {ph ph' : Phase}
    (hm : m.next ph = some ph') : ph = .idle ∧ ph' = .idle := by
  cases m <;> simp only [Micro.next] at hm
  case gateTest | checkId | judge =>
    split_ifs at hm with hph
    exact ⟨hph, (Option.some.inj hm).symm⟩
  case ret => cases hm
  all_goals exact absurd (congrArg Prod.snd h).symm hf

/-- A tick keeps the invariant. -/
theorem tick_inv {s t : State} (hs : s.Inv) (h : tick s = .next t) : t.Inv := by
  obtain ⟨ph, hph⟩ := hs
  have hlink := hph.linked
  obtain ⟨m, ms, hc, rfl⟩ | ⟨-, -, rfl⟩ | ⟨r, rest, i, hc, -, -, hp, rfl⟩ := tick_next h
  · have hrun := hph.running (by simp [hc])
    have hlatch : s.latch.isSome = true := by simpa [hc] using hph.latch
    rw [hc, disciplined] at hrun
    rcases hm : perform m s with ⟨u, f⟩
    split at hrun
    next hret =>
      obtain ⟨r, rfl⟩ : ∃ r, m = .ret r := by cases m <;> first | exact ⟨_, rfl⟩ | cases hret
      have hph' : ph = .idle ∨ ph = .stopped := by simpa using hrun
      refine ⟨ph, ?_⟩
      obtain ⟨htrace, hsession, hheld, hout, hlevel⟩ := hlink
      exact ⟨htrace, hsession, hheld, hout, hlevel, fun _ => .inr hph', fun h => absurd rfl h, rfl⟩
    next =>
      split at hrun
      next ph' hnext =>
        have hlink' : Linked u ph' := by simpa [hm] using perform_linked hlink hnext
        obtain ⟨htrace, hsession, hheld, hout, hlevel⟩ := hlink'
        refine ⟨ph', ?_⟩
        cases f with
        | go =>
          have hms : ms ≠ [] := by rintro rfl; cases hrun
          have hl : u.latch = s.latch := (perform_go hm).1
          simp only [advanceMicro, hm, hms, if_false]
          refine ⟨htrace, hsession, hheld, hout, hlevel, fun h => absurd h hms, fun _ => hrun, ?_⟩
          simp [hl, hlatch, hms]
        | again =>
          obtain ⟨rfl, -, rfl⟩ := perform_again hm
          obtain ⟨-, rfl⟩ := next_of_flow hm (by decide) hnext
          simp only [advanceMicro, hm]
          refine ⟨htrace, hsession, hheld, hout, hlevel, ?_, fun _ => ?_, ?_⟩
          · simp [gate, statusPoll, select]
          · exact (disciplined_restful (b := .gate) rfl ms).trans hrun
          · simp [hlatch, gate, statusPoll, select]
        | halt =>
          obtain ⟨-, rfl⟩ := next_of_flow hm (by decide) hnext
          simp only [advanceMicro, hm]
          exact ⟨htrace, hsession, hheld, hout, hlevel, fun _ => .inr (.inl rfl), fun h => absurd rfl h, by simp [(perform_halt hm).1]⟩
      next => cases hrun
  · exact ⟨ph, hph⟩
  · obtain ⟨htrace, hsession, hheld, hout, hlevel⟩ := hlink
    have hne := programOf_ne_nil s.params s.expectedId i
    have hrun : disciplined ph (programOf s.params s.expectedId i) = true := by
      rcases permitted_iff.mp hp with ⟨hq, rfl⟩ | ⟨hq, hi⟩ <;> rcases hph.idle hc with rfl | rfl | rfl <;>
        simp only [hq, Phase.session, reduceCtorEq] at hsession
      · exact disciplined_initDevice _ _
      · exact disciplined_programOf _ _ hi
    exact ⟨ph, htrace, hsession, hheld, hout, hlevel, fun h => absurd h hne, fun _ => hrun, by simp [hne]⟩

/-- A run that waits does so at a gate of its own blocks. -/
theorem drain_onProgram {p : Params} {e : Ident} {i : Instr} {bs : List Block} (hbs : bs <:+ blocksOf p e i) {s : State}
    (hp : s.params = p) (he : s.expectedId = e) (hl : s.latch = some i) : (drain (micros bs) s).OnProgram := by
  obtain ⟨u, -, hd⟩ | ⟨ms₁, ms₂, u, hms, hu, -, hd⟩ | ⟨-, -, -, -, t, -, -, -, hd⟩ := drain_cases (micros bs) s
  · exact .inl (by rw [hd])
  · have hbs' : .line .gateTest ∉ bs := fun h => gateTest_notMem_blocksOf p e i (hbs.subset h)
    obtain ⟨bs₁, bs₂, rfl, -, rfl⟩ := micros_eq_gateTest hbs' hms
    refine .inr ⟨i, micros bs₂, ?_, by rw [hd], ?_⟩
    · rw [hd]; exact hu.latched.1.trans hl
    · rw [hd]
      show _ <:+ programOf u.params u.expectedId i
      rw [hu.config.1, hu.config.2, hp, he]
      exact gate_suffix_of_blocks ((List.suffix_append bs₁ _).trans hbs)
  · exact .inl (by rw [hd])

theorem step_onProgram {s t : State} (hs : s.OnProgram) (h : step s = .next t) : t.OnProgram := by
  obtain ⟨hc, rfl⟩ | ⟨-, -, rfl⟩ | ⟨r, rest, i, hc, -, -, he⟩ := step_next h
  · obtain hc' | ⟨i, ms, hl, hgate, hsuffix⟩ := hs
    · exact absurd hc' hc
    · obtain ⟨bs, hbs, hms⟩ := blocks_of_gate_suffix hsuffix
      rw [hgate, hms]
      exact drain_onProgram hbs rfl rfl hl
  · exact hs
  · obtain ⟨-, -, rfl⟩ := exec_next he
    rw [programOf_eq]
    exact drain_onProgram (List.suffix_refl _) rfl rfl rfl

/-- Settles O47: a tick keeps the phase of the bus, and a run that waits has come to a gate of its own program. -/
theorem invStep : Obligations.InvStep :=
  ⟨fun _ _ hs h => step_keeps_of_tick (P := State.Inv) (fun _ _ => tick_inv) hs h, fun _ _ => step_onProgram⟩

end Sys2Proof.Machine
end

section
/-! PROOFS. What every step keeps: both memories and the chip, the configuration, the order of the session; what the block refuses and
what it accepts; and the state after reset. -/

namespace Sys2Proof.Machine

/-! ## Memories and chip -/

theorem Keep.store_hostMem_wf (k : Keep) (r : Byte) {s : State} (h : Memory.wf s.hostMem) : Memory.wf (k.store r s).hostMem := by
  cases k with
  | buf ref i => exact Memory.write_wf h _ _
  | _ => exact h

theorem perform_memInv (m : Micro) {s : State} (h : s.MemInv) : (perform m s).1.MemInv := by
  obtain ⟨hhost, hflash, hlegal⟩ := h
  rw [State.flash_eq] at hflash
  cases m with
  | xfer o k =>
    refine ⟨Keep.store_hostMem_wf k _ hhost, ?_, ?_⟩
    · simpa [State.flash_eq, perform, Env.reply_flash] using hflash
    · simpa [perform] using Env.reply_legal _ hlegal _ _
  | csLow => exact ⟨hhost, by simpa [State.flash_eq, perform, Env.select_flash] using hflash, Env.select_legal hlegal⟩
  | csHigh =>
    exact ⟨hhost, by simpa [State.flash_eq, perform] using Env.deselect_wf _ hflash _, Env.deselect_legal _ hlegal _⟩
  | checkId | judge =>
    simp only [perform]
    split <;> exact ⟨hhost, hflash, hlegal⟩
  | _ => exact ⟨hhost, hflash, hlegal⟩

/-- Settles O49: each micro-operation keeps both memories canonical and the chip legal. -/
theorem memInvStep : Obligations.MemInvStep := fun _ _ hs h =>
  step_keeps h (fun m _ => perform_memInv m) (fun _ _ _ _ _ hu => hu) hs

/-! ## The configuration -/

theorem perform_env_constants (m : Micro) (s : State) : (perform m s).1.env.constants? = s.env.constants? := by
  cases m with
  | xfer o k => simpa [perform] using Env.reply_constants _ _ _ _
  | csLow => exact Env.select_constants _
  | csHigh => exact Env.deselect_constants _ _ _
  | checkId | judge =>
    simp only [perform]
    split <;> rfl
  | _ => rfl

theorem perform_trace_prefix (m : Micro) (s : State) : s.trace <+: (perform m s).1.trace := by
  rcases perform_trace m s with h | ⟨e, h⟩ <;> rw [h]
  exact List.prefix_append _ _

/-- Settles O50: no micro-operation writes a parameter or a configuration register, and each adds at most one event to the trace. -/
theorem configConstant : Obligations.ConfigConstant := fun s t h =>
  step_keeps (P := fun u => u.params = s.params ∧ u.csId = s.csId ∧ u.busCfg = s.busCfg ∧ u.expectedId = s.expectedId ∧
      s.trace <+: u.trace ∧ u.env.constants? = s.env.constants?) h
    (fun m u ⟨hp, hcs, hcfg, he, htrace, henv⟩ => by
      obtain ⟨hp', hcs', hcfg', he', -⟩ := perform_config m u
      exact ⟨hp'.trans hp, hcs'.trans hcs, hcfg'.trans hcfg, he'.trans he, htrace.trans (perform_trace_prefix m u),
        (perform_env_constants m u).trans henv⟩)
    (fun _ _ _ _ _ hu => hu) ⟨rfl, rfl, rfl, rfl, List.prefix_refl _, rfl⟩

/-! ## The session -/

theorem perform_session_ne_constructed (m : Micro) {s : State} (h : s.session ≠ .constructed) :
    (perform m s).1.session ≠ .constructed := by
  cases m with
  | xfer o k => simpa [perform] using h
  | busStart | busStop => exact nofun
  | checkId | judge =>
    simp only [perform]
    split <;> exact h
  | _ => exact h

/-- Nothing follows the end of the bus session in a life of R267. -/
theorem lifePhase_stopped {p : Params} {cs : CsId} {cfg : BusCfg} {trace events : List Event} {ph : Phase}
    (h : lifePhase p cs cfg trace = some .stopped) (h' : lifePhase p cs cfg (trace ++ events) = some ph) : events = [] := by
  cases events with
  | nil => rfl
  | cons e es =>
    have hnone (l : List Event) : l.foldl (fun ph e => ph.bind (·.next p cs cfg e)) (none : Option Phase) = none := by
      induction l with
      | nil => rfl
      | cons _ _ ih => exact ih
    have hstop : Phase.next p cs cfg .stopped e = none := by
      cases e with
      | cs l => cases l <;> rfl
      | _ => simp [Phase.next]
    rw [List.append_cons, lifePhase, List.foldl_append, show (trace ++ [e]).foldl _ _ = _ from lifePhase_emit h e, hstop, hnone] at h'
    cases h'

/-- Settles O51: an active session never becomes constructed, and a life that has ended has no further event. -/
theorem sessionOrder : Obligations.SessionOrder := by
  intro s t hs h
  refine ⟨fun hactive => ?_, fun hended => ?_⟩
  · exact step_keeps (P := fun u => u.session ≠ .constructed) h (fun m _ => perform_session_ne_constructed m)
      (fun _ _ _ _ _ hu => hu) (by rw [hactive]; decide)
  · obtain ⟨hp, hcs, hcfg, -, ⟨events, htrace⟩, -⟩ := configConstant s t h
    obtain ⟨ph, hph⟩ := hs
    obtain ⟨ph', hph'⟩ := invStep.1 s t ⟨ph, hph⟩ h
    obtain rfl : ph = .stopped := by
      have := hended.symm.trans hph.session
      cases ph <;> first | rfl | cases this
    have hnil : events = [] := by
      refine lifePhase_stopped hph.trace ?_ (ph := ph')
      rw [htrace, ← hp, ← hcs, ← hcfg]
      exact hph'.trace
    have htrace' : t.trace = s.trace := by rw [← htrace, hnil, List.append_nil]
    have hphase : t.phase = s.phase := by simp only [State.phase, hp, hcs, hcfg, htrace']
    obtain rfl : Phase.stopped = ph' := Option.some.inj (hph.trace.symm.trans (hphase.symm.trans hph'.trace))
    exact ⟨hph'.session, htrace'⟩

/-! ## What is refused and what is accepted -/

/-- Settles O6: the lifecycle check comes first. -/
theorem outsideLifecycleRefused : Obligations.OutsideLifecycleRefused := by
  intro i s h
  rw [exec_eq_run, run_outside]
  rw [Bool.eq_false_iff, Ne, permitted_iff]
  rcases h with ⟨hq, hi⟩ | ⟨hq, hi⟩ | hq <;> simp_all

/-- Settles O7: no request is accepted while an operation runs. -/
theorem requestWhileRunningRefused : Obligations.RequestWhileRunningRefused := fun i s hc h => by
  rw [exec_eq_run, run_busy (permitted_iff.mpr h) hc]

/-- Settles O10: the branches of a step. -/
theorem stepRunsDecoded : Obligations.StepRunsDecoded := by
  refine ⟨fun s r rest i hc hr hd => ?_, fun s r rest e hc hr hd => ?_, fun s hc hr => ?_, fun s hc => ?_⟩
  · simp [step, hc, hr, hd]
  · simp [step, hc, hr, hd]
  · simp [step, hc, hr]
  · obtain ⟨m, ms, h⟩ := List.exists_cons_of_ne_nil hc
    simp [step, h]

/-- Settles O8: the decoder names no operation for the selector, and a step refuses the request. -/
theorem unknownSelectorRefused : Obligations.UnknownSelectorRefused := fun s r rest hc hr hsel =>
  stepRunsDecoded.2.1 s (.host r) rest _ hc hr (decodeHost_unassigned s.params hsel)

/-- A run that ends in a return at the latest waits at a gate, or has returned with a result. -/
theorem drain_returns {ms : List Micro} {r : Ret} {s t : State} (h : drain (ms ++ [.ret r]) s = t) :
    t.requests = s.requests ∧
      ((t.latch = s.latch ∧ t.control ≠ [] ∧ t.result = s.result) ∨
        (t.latch = none ∧ t.control = [] ∧ t.result.isSome = true)) := by
  subst h
  obtain ⟨u, hu, -⟩ | ⟨ms₁, ms₂, u, -, hu, -, hd⟩ | ⟨ms₁, m, ms₂, u, t, -, hu, ht, hd⟩ := drain_cases (ms ++ [.ret r]) s
  · obtain ⟨_, -, hret⟩ := passes_append hu
    cases hret with
    | cons hm _ => cases hm
  · obtain ⟨hl, hr, hq⟩ := hu.latched
    rw [hd]
    exact ⟨hq, .inl ⟨hl, by simp [gate, statusPoll, select], hr⟩⟩
  · obtain ⟨hl, hr, hq⟩ := perform_halt ht
    rw [hd]
    exact ⟨hq.trans hu.latched.2.2, .inr ⟨hl, rfl, hr⟩⟩

/-- Settles O9: every program ends in a return. -/
theorem permittedAccepted : Obligations.PermittedAccepted := by
  intro i s hc h
  refine ⟨_, exec_of_idle (permitted_iff.mpr h) hc, ?_⟩
  obtain ⟨ms, r, hprog⟩ := programOf_ends s.params s.expectedId i
  rw [hprog]
  exact drain_returns rfl

/-- Settles O43: the program is one event and a return. -/
theorem endSession : Obligations.EndSession := fun s hs => by
  rw [exec_of_ready hs (by decide)]
  rfl

/-! ## The idle block, and reset -/

/-- Settles O44: the two branches of the read. -/
theorem hostReadsUid : Obligations.HostReadsUid := fun _ => ⟨fun hc => if_pos hc, fun hc => if_neg hc⟩

/-- Settles O48: an idle block is in one of the three phases between operations. -/
theorem idleReleased : Obligations.IdleReleased := by
  rintro s ⟨ph, hph⟩ hc
  have hlatch : s.latch = none := by simpa [hc] using hph.latch
  rcases hph.idle hc with rfl | rfl | rfl
  · exact ⟨hph.busHeld, fun h => absurd hph.session h, hlatch⟩
  · exact ⟨hph.busHeld, fun _ => ⟨hph.level _ rfl, hph.csOut⟩, hlatch⟩
  · exact ⟨hph.busHeld, fun _ => ⟨hph.level _ rfl, hph.csOut⟩, hlatch⟩

/-- Settles O45: the fields of the constructed state. -/
theorem resetValues : Obligations.ResetValues :=
  ⟨rfl, rfl, rfl, rfl, rfl, rfl, rfl, rfl, rfl, rfl, by decide⟩

/-- Settles O46: the reset state is in the first phase of a life, with empty memories and an empty trace. -/
theorem invReset : Obligations.InvReset :=
  ⟨⟨.fresh, rfl, rfl, rfl, rfl, nofun, fun _ => .inl rfl, fun h => absurd rfl h, rfl⟩,
    ⟨Memory.wf_nil, Memory.wf_nil, trivial⟩, .inl rfl, ⟨by decide, nofun, rfl⟩⟩

end Sys2Proof.Machine
end

section
/-! PROOFS. The paged write planner (42_write.md R187 to R190): each chunk reaches to the end of its page or to the end of the buffer. -/

namespace Sys2Proof.Machine

theorem firstChunk_bounds (a : Addr) : 1 ≤ firstChunk a ∧ firstChunk a ≤ 256 := by
  unfold firstChunk
  omega

theorem advanceAddr_toNat (a : Addr) (n : Nat) : (advanceAddr a n).toNat = (a.toNat + n) % 2 ^ 24 := by
  simp [advanceAddr, BitVec.toNat_add]

/-- After a whole page's rest the next chunk starts a page. -/
theorem firstChunk_advanceAddr (a : Addr) : firstChunk (advanceAddr a (firstChunk a)) = 256 := by
  unfold firstChunk
  rw [advanceAddr_toNat]
  omega

/-- The planner's loop from an address, offset and remaining length. -/
def planFrom (fuel : Nat) (a : Addr) (off rem : Nat) : List Chunk := planLoop fuel a off rem (firstChunk a)

/-- The size of the next chunk. -/
def nextSize (a : Addr) (rem : Nat) : Nat := min rem (firstChunk a)

theorem nextSize_bounds {a : Addr} {rem : Nat} (h : rem ≠ 0) :
    1 ≤ nextSize a rem ∧ nextSize a rem ≤ 256 ∧ nextSize a rem ≤ rem ∧ a.toNat % 256 + nextSize a rem ≤ 256 := by
  unfold nextSize firstChunk
  omega

/-- `CAP` is what is left of the current page, unless nothing remains to be written. -/
theorem cap_of_advance (a : Addr) (rem : Nat) :
    rem - nextSize a rem = 0 ∨ firstChunk (advanceAddr a (nextSize a rem)) = 256 := by
  by_cases h : rem ≤ firstChunk a
  · exact .inl (by simp [nextSize, h])
  · exact .inr (by rw [nextSize, min_eq_right (Nat.le_of_not_le h), firstChunk_advanceAddr])

theorem plan_eq (a : Addr) (len : Nat) : plan a len = planFrom len a 0 len := rfl

theorem planFrom_done (fuel : Nat) (a : Addr) (off : Nat) : planFrom fuel a off 0 = [] := by
  cases fuel <;> rfl

theorem planFrom_succ (fuel : Nat) (a : Addr) (off : Nat) {rem : Nat} (h : rem ≠ 0) :
    planFrom (fuel + 1) a off rem =
      ⟨a, off, nextSize a rem⟩ ::
        planFrom fuel (advanceAddr a (nextSize a rem)) (off + nextSize a rem) (rem - nextSize a rem) := by
  rw [planFrom, planLoop, if_neg h]
  rcases cap_of_advance a rem with hdone | hcap
  · show ⟨a, off, nextSize a rem⟩ :: planLoop fuel _ _ (rem - nextSize a rem) 256 = _
    rw [hdone, planFrom_done]
    cases fuel <;> rfl
  · rw [planFrom, hcap]
    rfl

/-- Every chunk has at least one byte and stays in its page. -/
theorem mem_planFrom {fuel : Nat} {a : Addr} {off rem : Nat} {c : Chunk} (h : c ∈ planFrom fuel a off rem) :
    1 ≤ c.size ∧ c.size ≤ 256 ∧ staysInPage c.start c.size := by
  induction fuel generalizing a off rem with
  | zero => cases h
  | succ fuel ih =>
    by_cases hrem : rem = 0
    · rw [hrem, planFrom_done] at h; cases h
    · rw [planFrom_succ _ _ _ hrem] at h
      rcases List.mem_cons.mp h with rfl | h
      · obtain ⟨hpos, hle, -, hpage⟩ := nextSize_bounds (a := a) hrem
        exact ⟨hpos, hle, hpage⟩
      · exact ih h

/-- Settles O28: a chunk reaches at most to the end of its page. -/
theorem pageInvariant : Obligations.PageInvariant := by
  intro addr len c hc
  obtain ⟨hpos, hle, hpage⟩ := mem_planFrom hc
  exact ⟨hpos, hle, by simp only [staysInPage] at hpage; omega⟩

/-- What the loop does from any offset: the sizes add up, the payloads are the buffer's bytes, each chunk starts after those before. -/
theorem planFrom_covers (m : Memory) (buf : BufRef) {fuel : Nat} (a : Addr) (off : Nat) {rem : Nat} (hfuel : rem ≤ fuel) :
    ((planFrom fuel a off rem).map Chunk.size).sum = rem ∧
      (planFrom fuel a off rem).flatMap (Chunk.payload m buf) = (List.range rem).map (fun i => Memory.read m (buf + (off + i))) ∧
      ∀ (k : Nat) (c : Chunk), (planFrom fuel a off rem)[k]? = some c →
        c.off = off + (((planFrom fuel a off rem).take k).map Chunk.size).sum ∧
          c.start.toNat = (a.toNat + (c.off - off)) % 2 ^ 24 := by
  induction fuel generalizing a off rem with
  | zero =>
    obtain rfl : rem = 0 := Nat.le_zero.mp hfuel
    simp [planFrom_done]
  | succ fuel ih =>
    by_cases hrem : rem = 0
    · simp [hrem, planFrom_done]
    · obtain ⟨hpos, -, hle, -⟩ := nextSize_bounds (a := a) hrem
      rw [planFrom_succ _ _ _ hrem]
      obtain ⟨hsum, hpayload, hstart⟩ := ih (advanceAddr a (nextSize a rem)) (off + nextSize a rem)
        (rem := rem - nextSize a rem) (by omega)
      generalize hn : nextSize a rem = n at *
      refine ⟨by simp [hsum]; omega, ?_, ?_⟩
      · obtain ⟨k, rfl⟩ := Nat.exists_eq_add_of_le hle
        rw [List.flatMap_cons, hpayload, List.range_add]
        simp [Chunk.payload, Nat.add_assoc]
      · intro k c hc
        cases k with
        | zero =>
          cases hc
          simp [Nat.mod_eq_of_lt a.isLt]
        | succ k =>
          obtain ⟨hoff, hs⟩ := hstart k c hc
          rw [advanceAddr_toNat] at hs
          simp only [List.take_succ_cons, List.map_cons, List.sum_cons]
          exact ⟨by omega, by omega⟩

/-- Settles O29: each turn of the loop takes the chunk at its offset and leaves the rest. -/
theorem planComplete : Obligations.PlanComplete := by
  intro m buf addr len
  obtain ⟨hsum, hpayload, hstart⟩ := planFrom_covers m buf addr 0 (Nat.le_refl len)
  simpa [plan_eq] using And.intro hsum (And.intro hpayload hstart)

/-! ## The registers of the planner -/

/-- The planner stands at a turn of its loop: `CAP` is what is left of the page, unless nothing remains. -/
def State.AtTurn (s : State) : Prop := s.rem = 0 ∨ s.cap.toNat = firstChunk s.a

/-- With the size of the next chunk in `N`. -/
def State.chunkTaken (s : State) : State := { s with n := BitVec.ofNat 9 (nextSize s.a s.rem) }

/-- After the turn. -/
def State.chunkDone (s : State) : State :=
  { s.chunkTaken with
    a := advanceAddr s.a (nextSize s.a s.rem), off := s.off + nextSize s.a s.rem, rem := s.rem - nextSize s.a s.rem, cap := 256 }

theorem firstChunk_toNat (a : Addr) : (BitVec.ofNat 9 (firstChunk a)).toNat = firstChunk a := by
  have := (firstChunk_bounds a).2
  rw [BitVec.toNat_ofNat]
  omega

theorem State.AtTurn.takeChunk {s : State} (h : s.AtTurn) (hrem : s.rem ≠ 0) : perform .takeChunk s = (s.chunkTaken, .go) := by
  simp [perform, State.chunkTaken, nextSize, h.resolve_left hrem]

theorem nextSize_toNat {a : Addr} {rem : Nat} (hrem : rem ≠ 0) : (BitVec.ofNat 9 (nextSize a rem)).toNat = nextSize a rem := by
  have := (nextSize_bounds (a := a) hrem).2.1
  rw [BitVec.toNat_ofNat]
  omega

theorem State.advance_chunkTaken {s : State} (hrem : s.rem ≠ 0) : perform .advance s.chunkTaken = (s.chunkDone, .go) := by
  simp [perform, State.chunkDone, State.chunkTaken, nextSize_toNat hrem]

theorem State.chunkDone_atTurn (s : State) : s.chunkDone.AtTurn :=
  (cap_of_advance s.a s.rem).imp_right fun h => h.symm

end Sys2Proof.Machine
end

section
/-! PROOFS. The frames a run sends (30_encoding.md R118, R119): the pending micro-operations of a state send only frames of wire commands,
and every tick keeps it so. -/

namespace Sys2Proof.Machine

/-! ## Traces -/

theorem openFrame_append (o : Option (List Byte)) (es fs : List Event) :
    openFrame o (es ++ fs) = openFrame (openFrame o es) fs := by
  induction es generalizing o with
  | nil => rfl
  | cons e es ih => rcases e with _ | _ | _ | _ | _ | (_ | _) | _ <;> exact ih _

theorem sentFrames_append (o : Option (List Byte)) (es fs : List Event) :
    sentFrames o (es ++ fs) = sentFrames o es ++ sentFrames (openFrame o es) fs := by
  induction es generalizing o with
  | nil => rfl
  | cons e es ih =>
    rcases e with _ | _ | _ | _ | _ | (_ | _) | _ <;> simp only [List.cons_append, sentFrames, openFrame, ih]
    cases o <;> rfl

/-! ## What the frames of pending micro-operations depend on -/

/-- Two states agree on all that the bytes to be sent depend on. -/
structure SameView (s t : State) : Prop where
  params : t.params = s.params
  a : t.a = s.a
  rem : t.rem = s.rem
  off : t.off = s.off
  cap : t.cap = s.cap
  n : t.n = s.n
  hostMem : t.hostMem = s.hostMem

/-- What the bytes to be sent depend on. -/
def State.view (s : State) : Params × Addr × Nat × Nat × BitVec 9 × BitVec 9 × Memory :=
  (s.params, s.a, s.rem, s.off, s.cap, s.n, s.hostMem)

theorem SameView.of_view {s t : State} (h : t.view = s.view) : SameView s t := by
  simp only [State.view, Prod.mk.injEq] at h
  obtain ⟨hp, ha, hrem, hoff, hcap, hn, hm⟩ := h
  exact ⟨hp, ha, hrem, hoff, hcap, hn, hm⟩

theorem SameView.refl (s : State) : SameView s s := .of_view rfl

theorem SameView.eval {s t : State} (h : SameView s t) (o : Out) : o.eval t = o.eval s := by
  cases o <;> simp only [Out.eval, h.params, h.a, h.off, h.hostMem]

theorem SameView.store {s t : State} (h : SameView s t) (k : Keep) (r : Byte) : SameView (k.store r s) (k.store r t) := by
  obtain ⟨hp, ha, hrem, hoff, hcap, hn, hm⟩ := h
  cases k with
  | buf ref i => exact ⟨hp, ha, hrem, hoff, hcap, hn, by simp only [Keep.store, hm]⟩
  | _ => exact ⟨hp, ha, hrem, hoff, hcap, hn, hm⟩

theorem sendsFrames_congr {ms : List Micro} {o : Option (List Byte)} {s t : State} (h : sendsFrames ms o s) (hv : SameView s t) :
    sendsFrames ms o t := by
  induction ms generalizing o s t with
  | nil => exact h
  | cons m ms ih =>
    have hv' := hv
    obtain ⟨hp, ha, hrem, hoff, hcap, hn, hm⟩ := hv'
    cases m <;> simp only [sendsFrames] at h ⊢
    case xfer out keep => intro r; rw [hv.eval]; exact ih (h r) (hv.store keep r)
    case csHigh => exact ⟨by rw [hp]; exact h.1, ih h.2 hv⟩
    case gateTest | checkId | judge => exact ⟨h.1, ih h.2 hv⟩
    case setA addr => exact ih h ⟨hp, rfl, hrem, hoff, hcap, hn, hm⟩
    case planStart len => exact ih h ⟨hp, ha, rfl, rfl, by simp only [perform, ha], hn, hm⟩
    case takeChunk => exact ih h ⟨hp, ha, hrem, hoff, hcap, by simp only [perform, hrem, hcap], hm⟩
    case advance =>
      exact ih h
        ⟨hp, by simp only [perform, ha, hn], by simp only [perform, hrem, hn], by simp only [perform, hoff, hn], rfl, hn, hm⟩
    case ret => exact h
    all_goals exact ih h hv

/-! ## The frames of the blocks -/

/-- The frame of a well-formed wire command. -/
theorem isFrame_encodeFrame {p : Params} {j : Instr} {w : Wire} (hp : p.wf) (hwire : j.wire? = some w) (hwf : j.wf p = true) :
    isFrame p (encodeFrame p j) := ⟨j, decodeFrame_encodeFrame hp.1 hwire hwf⟩

/-- The bytes that transfers send, if what they receive does not change them. -/
def bodyBytes (s : State) (body : List (Out × Keep)) : List Byte := body.map fun t => t.1.eval s

theorem SameView.same_bodyBytes {s t : State} (h : SameView s t) (body : List (Out × Keep)) : bodyBytes t body = bodyBytes s body :=
  List.map_congr_left fun u _ => h.eval u.1

/-- The frame of a streaming read at the address in `A`. -/
theorem encodeFrame_arrayRead (s : State) (keeps : List Keep) :
    encodeFrame s.params (.arrayRead s.a keeps.length) = s.params.opcodes.byte .arrayRead :: bodyBytes s (readBody keeps) := by
  simp [encodeFrame, Opcodes.byte, bodyBytes, readBody, addrBody, addrBytes, Out.eval, Function.comp_def]

/-- A streaming read sends the address and `FILL`. -/
theorem readBody_out {keeps : List Keep} {t : Out × Keep} (h : t ∈ readBody keeps) :
    t.1 = .addrHigh ∨ t.1 = .addrMid ∨ t.1 = .addrLow ∨ t.1 = .fill := by
  simp only [readBody, addrBody, List.mem_append, List.mem_cons, List.mem_map, List.not_mem_nil, or_false] at h
  rcases h with (rfl | rfl | rfl) | rfl | ⟨k, -, rfl⟩ <;> simp

section
variable {I : State → Prop} {s₀ : State} {body : List (Out × Keep)}
  (hkeep : ∀ t ∈ body, ∀ r s, I s → I (t.2.store r s)) (heval : ∀ t ∈ body, ∀ s, I s → t.1.eval s = t.1.eval s₀)
include hkeep heval

theorem sendsFrames_transfers {ms : List Micro} {sofar : List Byte}
    (hrest : ∀ s, I s → sendsFrames ms (some (sofar ++ bodyBytes s₀ body)) s) {s : State} (hs : I s) :
    sendsFrames (transfers body ++ ms) (some sofar) s := by
  induction body generalizing sofar s with
  | nil => simpa [transfers, bodyBytes] using hrest s hs
  | cons t body ih =>
    intro r
    rw [heval t (by simp) s hs]
    refine ih (fun u hu => hkeep u (List.mem_cons_of_mem _ hu)) (fun u hu => heval u (List.mem_cons_of_mem _ hu)) ?_
      (hkeep t (by simp) r s hs)
    simpa [bodyBytes] using hrest

/-- A command cycle sends one frame. -/
theorem sendsFrames_cycle {w : Wire} (hp : ∀ s, I s → s.params = s₀.params)
    (hframe : isFrame s₀.params (s₀.params.opcodes.byte w :: bodyBytes s₀ body)) {ms : List Micro}
    (hrest : ∀ s, I s → sendsFrames ms none s) {s : State} (hs : I s) :
    sendsFrames ((Block.cycle w body).micros ++ ms) none s := by
  have hcycle : (Block.cycle w body).micros ++ ms =
      .begin :: .csLow :: .xfer (.opcode w) .drop :: (transfers body ++ (.csHigh :: .finish :: ms)) := by
    simp [Block.micros, select, deselect]
  rw [hcycle]
  intro r
  have hopcode : (Out.opcode w).eval s = s₀.params.opcodes.byte w := by simp [Out.eval, hp s hs]
  rw [hopcode]
  refine sendsFrames_transfers hkeep heval (fun u hu => ?_) (s := s) hs
  refine ⟨?_, hrest u hu⟩
  rw [hp u hu]
  rintro bytes ⟨⟩
  exact hframe

end

/-- The byte received is kept in a register, not in a buffer. -/
def Keep.inRegister : Keep → Bool
  | .buf _ _ => false
  | .drop | .st | .v | .hi | .lo | .uid _ | .allFF => true

theorem SameView.storeRegister {s t : State} (h : SameView s t) {k : Keep} (hk : k.inRegister = true) (r : Byte) :
    SameView s (k.store r t) := by
  cases k with
  | buf ref i => cases hk
  | _ => exact ⟨h.params, h.a, h.rem, h.off, h.cap, h.n, h.hostMem⟩

/-- A command cycle whose received bytes go to registers sends the frame it would send from its beginning. -/
theorem sendsFrames_cycle_register {s : State} {w : Wire} {body : List (Out × Keep)}
    (hbody : body.all (fun t => t.2.inRegister) = true)
    (hframe : isFrame s.params (s.params.opcodes.byte w :: bodyBytes s body)) {ms : List Micro} (hrest : sendsFrames ms none s) :
    sendsFrames ((Block.cycle w body).micros ++ ms) none s :=
  sendsFrames_cycle (I := SameView s) (fun t ht r _ hu => hu.storeRegister (List.all_eq_true.mp hbody t ht) r)
    (fun t _ _ hu => hu.eval t.1) (fun _ hu => hu.params) hframe (fun _ hu => sendsFrames_congr hrest hu) (SameView.refl s)

theorem sendsFrames_gate {s : State} (hp : s.params.wf) {ms : List Micro} (hrest : sendsFrames ms none s) :
    sendsFrames (gate ++ ms) none s := by
  rw [gate, List.append_assoc, statusPoll_eq]
  exact sendsFrames_cycle_register rfl (isFrame_encodeFrame (j := .statusRead) hp rfl rfl) ⟨rfl, hrest⟩

section
variable {s : State} (hp : s.params.wf)
include hp

theorem sendsFrames_plainBlocks_of {w : Wire} {body : List (Out × Keep)} {ms : List Micro}
    (h : sendsFrames ((Block.cycle w body).micros ++ ms) none s) : sendsFrames (micros (plainBlocks s.params w body) ++ ms) none s := by
  unfold plainBlocks
  split
  · simpa using h
  · simpa [Block.micros] using sendsFrames_gate hp h

/-- A dispatched command sends the frame of its instruction. -/
theorem sendsFrames_plainBlocks {j : Instr} {w : Wire} {body : List (Out × Keep)} (hwire : j.wire? = some w)
    (hwf : j.wf s.params = true) (hbody : body.all (fun t => t.2.inRegister) = true)
    (henc : encodeFrame s.params j = s.params.opcodes.byte w :: bodyBytes s body) {ms : List Micro} (hrest : sendsFrames ms none s) :
    sendsFrames (micros (plainBlocks s.params w body) ++ ms) none s :=
  sendsFrames_plainBlocks_of hp (sendsFrames_cycle_register hbody (henc ▸ isFrame_encodeFrame hp hwire hwf) hrest)

theorem sendsFrames_writeBlocks {j : Instr} {w : Wire} {body : List (Out × Keep)} (hwire : j.wire? = some w)
    (hwf : j.wf s.params = true) (hbody : body.all (fun t => t.2.inRegister) = true)
    (henc : encodeFrame s.params j = s.params.opcodes.byte w :: bodyBytes s body) {ms : List Micro} (hrest : sendsFrames ms none s) :
    sendsFrames (micros (writeBlocks s.params w body) ++ ms) none s := by
  rw [writeBlocks, micros_append, List.append_assoc]
  exact sendsFrames_plainBlocks hp (j := .writeEnable) rfl rfl rfl rfl (sendsFrames_plainBlocks hp hwire hwf hbody henc hrest)

/-- The streaming read sends one frame, whatever buffer it fills. -/
theorem sendsFrames_readBlocks (keeps : List Keep) (hlen : lengthFits s.params keeps.length) {r : Ret} :
    sendsFrames (micros (readBlocks s.params keeps) ++ [.ret r]) none s := by
  have hframe : isFrame s.params (s.params.opcodes.byte .arrayRead :: bodyBytes s (readBody keeps)) := by
    rw [← encodeFrame_arrayRead]
    exact isFrame_encodeFrame hp rfl (by simpa [Instr.wf] using hlen)
  refine sendsFrames_plainBlocks_of hp (sendsFrames_cycle (I := fun t => t.params = s.params ∧ t.a = s.a) ?_ ?_ (fun _ hu => hu.1)
    hframe (ms := [.ret r]) (fun _ _ => rfl) ⟨rfl, rfl⟩)
  · intro t _ r u hu
    exact ⟨(Keep.store_params ..).trans hu.1, by rcases t with ⟨o, k⟩; cases k <;> exact hu.2⟩
  · intro t ht u hu
    rcases readBody_out ht with h | h | h | h <;> simp [h, Out.eval, hu.1, hu.2]

theorem sendsFrames_idBlocks {ms : List Micro} (hrest : sendsFrames ms none s) :
    sendsFrames (micros (idBlocks s.params) ++ ms) none s := by
  rw [idBlocks, micros_append, List.append_assoc]
  exact sendsFrames_plainBlocks hp (j := .idRead) rfl rfl rfl rfl hrest

theorem sendsFrames_statusWriteBlocks {ms : List Micro} (hrest : sendsFrames ms none s) :
    sendsFrames (micros (statusWriteBlocks s.params 0x00) ++ ms) none s :=
  sendsFrames_writeBlocks hp (j := .statusWrite 0x00) rfl rfl rfl rfl hrest

theorem sendsFrames_sampleBlocks {α : Type} (k : α → BitVec 4) (xs : List α) {ms : List Micro} (hrest : sendsFrames ms none s) :
    sendsFrames (micros (xs.flatMap fun x => sampleBlocks s.params (k x)) ++ ms) none s := by
  induction xs with
  | nil => exact hrest
  | cons x xs ih =>
    rw [List.flatMap_cons, micros_append, List.append_assoc, sampleBlocks]
    rw [List.cons_append, micros_cons, micros_append, List.append_assoc, List.append_assoc]
    exact sendsFrames_idBlocks hp ⟨rfl, ih⟩

/-- A page program at the address in `A`. -/
theorem sendsFrames_programBlocks {payload : List Out} (hpos : 1 ≤ payload.length) (hpage : staysInPage s.a payload.length)
    {ms : List Micro} (hrest : sendsFrames ms none s) : sendsFrames (micros (programBlocks s.params payload) ++ ms) none s := by
  refine sendsFrames_writeBlocks hp (j := .pageProgram s.a (payload.map (·.eval s))) rfl ?_ ?_ ?_ hrest
  · simpa [Instr.wf] using And.intro hpos hpage
  · simp [addrBody, Keep.inRegister]
  · simp [encodeFrame, Opcodes.byte, bodyBytes, addrBody, addrBytes, Out.eval, Function.comp_def]

end

/-- The chunks of the planner are page programs that stay in their pages. -/
theorem sendsFrames_chunkBlocks {fuel : Nat} {s : State} (hp : s.params.wf) (hturn : s.AtTurn) (buf : BufRef) (r : Ret) (off : Nat) :
    sendsFrames (micros ((planFrom fuel s.a off s.rem).flatMap fun c => chunkBlocks s.params buf c.size) ++ [.ret r]) none s := by
  induction fuel generalizing s off with
  | zero => rfl
  | succ fuel ih =>
    by_cases hrem : s.rem = 0
    · rw [hrem, planFrom_done]; rfl
    · obtain ⟨hpos, -, -, hpage⟩ := nextSize_bounds (a := s.a) hrem
      rw [planFrom_succ _ _ _ hrem, List.flatMap_cons, micros_append, List.append_assoc, chunkBlocks]
      simp only [micros_cons, micros_append, micros_nil, Block.micros, List.append_assoc, List.cons_append, List.nil_append,
        sendsFrames]
      rw [hturn.takeChunk hrem]
      refine sendsFrames_programBlocks (s := s.chunkTaken) hp (by simpa [bufPayload] using hpos)
        (by simpa [bufPayload, State.chunkTaken] using hpage) ?_
      rw [sendsFrames, State.advance_chunkTaken hrem]
      exact ih (s := s.chunkDone) hp s.chunkDone_atTurn _

/-! ## The frames of the programs -/

/-- Bring-up sends a wake, perhaps an identifier read, and a status write of 0x00. -/
theorem sendsFrames_initBlocks {s : State} (hp : s.params.wf) (e : Ident) (r : Ret) :
    sendsFrames (micros (bodyBlocks s.params e .initDevice) ++ [.ret r]) none s := by
  have hstatus := sendsFrames_statusWriteBlocks hp (ms := [.ret r]) rfl
  simp only [bodyBlocks, micros_append, List.append_assoc]
  refine ⟨nofun, sendsFrames_plainBlocks hp (j := .wakeCmd) rfl rfl rfl rfl ?_⟩
  split
  · exact hstatus
  · rw [micros_append, List.append_assoc]
    exact sendsFrames_idBlocks hp ⟨rfl, hstatus⟩

/-- A well-formed instruction sends only frames of wire commands. -/
theorem sendsFrames_programOf {s : State} (hp : s.params.wf) {i : Instr} (hwf : i.wf s.params = true) :
    sendsFrames (programOf s.params s.expectedId i) none s := by
  rw [programOf_eq, blocksOf, micros_append]
  have haddr (a : Addr) : ({ s with a := a } : State).params.wf := hp
  cases i
  case initDevice => exact sendsFrames_initBlocks hp _ _
  case found =>
    show sendsFrames (micros (plainBlocks s.params .wake [] ++ _) ++ _) none s
    rw [micros_append, List.append_assoc]
    exact sendsFrames_plainBlocks hp (j := .wakeCmd) rfl rfl rfl rfl (sendsFrames_sampleBlocks hp _ _ rfl)
  case arrayReadLF a | readByte a =>
    exact sendsFrames_plainBlocks (haddr a) (j := .arrayReadLF a) (ms := [.ret .datum]) rfl rfl rfl rfl rfl
  case arrayRead a n =>
    exact sendsFrames_readBlocks (haddr a) _ (by simpa [keepInBuf, Instr.wf] using hwf)
  case readBytes a span =>
    exact sendsFrames_readBlocks (haddr a) _ (by simpa [keepInBuf, Instr.wf] using hwf)
  case regionIsEmpty a len =>
    refine sendsFrames_readBlocks (haddr a) (List.replicate len.toNat .allFF) ?_
    have : 2 ^ 9 ≤ 2 ^ s.params.lenBits := Nat.pow_le_pow_right (by decide) hp.2
    have := len.isLt
    simp only [List.length_replicate, lengthFits]
    omega
  case pageProgram a d =>
    obtain ⟨hpos, hpage⟩ : 1 ≤ d.length ∧ staysInPage a d.length := by simpa [Instr.wf] using hwf
    exact sendsFrames_programBlocks (haddr a) (payload := d.map .byte) (ms := [.ret .done]) (by simpa using hpos) (by simpa using hpage) rfl
  case writeByte a v =>
    refine sendsFrames_programBlocks (haddr a) (payload := [.byte v]) (ms := [.ret .done]) (Nat.le_refl 1) ?_ rfl
    show a.toNat % 256 + 1 ≤ 256
    omega
  case writeBytes a span =>
    exact sendsFrames_chunkBlocks (s := { s with a := a, rem := span.len, off := 0, cap := BitVec.ofNat 9 (firstChunk a) }) hp
      (.inr (firstChunk_toNat a)) span.buf .done 0
  case blockErase4KCmd a | eraseBlock4K a =>
    exact sendsFrames_writeBlocks (haddr a) (j := .blockErase4KCmd a) (ms := [.ret .done]) rfl rfl rfl rfl rfl
  case blockErase32KCmd a | eraseBlock32K a =>
    exact sendsFrames_writeBlocks (haddr a) (j := .blockErase32KCmd a) (ms := [.ret .done]) rfl rfl rfl rfl rfl
  case blockErase64KCmd a | eraseBlock64K a =>
    exact sendsFrames_writeBlocks (haddr a) (j := .blockErase64KCmd a) (ms := [.ret .done]) rfl rfl rfl rfl rfl
  case chipEraseCmd | eraseChip => exact sendsFrames_writeBlocks hp (j := .chipEraseCmd) rfl rfl rfl rfl rfl
  case statusRead | isBusy | readStatusRegister =>
    exact sendsFrames_cycle_register (w := .statusRead) (body := [(.fill, .st)]) rfl (isFrame_encodeFrame (j := .statusRead) hp rfl rfl) rfl
  case statusWrite v =>
    obtain rfl : v = 0x00 := by simpa [Instr.wf] using hwf
    exact sendsFrames_statusWriteBlocks hp rfl
  case writeEnable => exact sendsFrames_plainBlocks hp (j := .writeEnable) rfl rfl rfl rfl rfl
  case idRead | readDeviceId => exact sendsFrames_idBlocks hp rfl
  case uidRead | readUniqueId =>
    show sendsFrames (micros (uidBlocks s.params) ++ _) none s
    rw [uidBlocks, micros_append, List.append_assoc]
    exact sendsFrames_plainBlocks hp (j := .uidRead) rfl rfl rfl rfl rfl
  case sleepCmd | sleep => exact sendsFrames_plainBlocks hp (j := .sleepCmd) rfl rfl rfl rfl rfl
  case wakeCmd | wakeup => exact sendsFrames_plainBlocks hp (j := .wakeCmd) rfl rfl rfl rfl rfl
  case endSession => exact rfl

/-! ## Every tick -/

/-- One micro-operation adds events whose frames are wire commands', and leaves pending only what sends such frames; it tests and
returns between frames. -/
theorem perform_frames {m : Micro} {ms : List Micro} {o : Option (List Byte)} {s t : State} {f : Flow} (h : sendsFrames (m :: ms) o s)
    (hm : perform m s = (t, f)) :
    ∃ es, t.trace = s.trace ++ es ∧ (∀ bytes ∈ sentFrames o es, isFrame s.params bytes) ∧
      match f with
      | .go => sendsFrames ms (openFrame o es) t
      | .again => openFrame o es = none ∧ sendsFrames ms none t
      | .halt => openFrame o es = none := by
  cases m
  case csHigh =>
    cases hm
    refine ⟨[.cs .high], rfl, fun bytes hb => h.1 bytes ?_, sendsFrames_congr h.2 (.of_view rfl)⟩
    cases o <;> simp [sentFrames] at hb ⊢
    exact hb.symm
  case xfer out keep =>
    cases hm
    refine ⟨[.xfer (out.eval s) (s.exchange (out.eval s)).1], by simp, nofun,
      sendsFrames_congr (h (s.exchange (out.eval s)).1) ?_⟩
    exact SameView.store (s := s) (t := (s.exchange (out.eval s)).2) (.of_view rfl) keep _
  case gateTest =>
    simp only [perform] at hm
    split at hm <;> cases hm
    · exact ⟨[], by simp, nofun, h⟩
    · exact ⟨[], by simp, nofun, h.1 ▸ h.2⟩
  case checkId =>
    simp only [perform] at hm
    split at hm <;> cases hm
    · exact ⟨[], by simp, nofun, h.1 ▸ h.2⟩
    · exact ⟨[], by simp, nofun, h.1⟩
  case judge =>
    obtain ⟨rfl, h⟩ := h
    simp only [perform] at hm
    split at hm <;> cases hm
    · exact ⟨[], by simp, nofun, rfl⟩
    · exact ⟨[], by simp, nofun, sendsFrames_congr (s := s) h (.of_view rfl)⟩
  case ret r =>
    cases hm
    exact ⟨[], by simp, nofun, h⟩
  case setA | planStart | takeChunk | advance =>
    cases hm
    exact ⟨[], by simp, nofun, h⟩
  case setAllFF | setIdr | setUidValid | setCnt =>
    cases hm
    exact ⟨[], by simp, nofun, sendsFrames_congr (s := s) h (.of_view rfl)⟩
  all_goals
    cases hm
    exact ⟨[_], rfl, nofun, sendsFrames_congr (s := s) h (.of_view rfl)⟩

/-- The invariant for the part of the trace after `base`. -/
def FramesFrom (p : Params) (base : List Event) (s : State) : Prop :=
  s.params = p ∧ ∃ events, s.trace = base ++ events ∧ (∀ bytes ∈ sentFrames none events, isFrame p bytes) ∧
    sendsFrames s.control (openFrame none events) s

theorem framesInv_iff {s : State} : s.FramesInv ↔ s.params.wf ∧ FramesFrom s.params [] s :=
  ⟨fun ⟨hp, hsent, hpend⟩ => ⟨hp, rfl, s.trace, rfl, hsent, hpend⟩, fun ⟨hp, _, _, htrace, hsent, hpend⟩ => by
    cases htrace; exact ⟨hp, hsent, hpend⟩⟩

/-- A request that decodes is a well-formed instruction. -/
theorem wf_of_decode {p : Params} {r : Request} {i : Instr} (h : decode p r = .ok i) : i.wf p = true := by
  cases r with
  | host r => exact (decodeHost_ok h).2.2.1
  | frame bytes => exact (decodeFrameSound p bytes i h).2.1

/-- A tick sends only what was pending, and an accepted instruction has only well-formed frames pending. -/
theorem tick_framesFrom {p : Params} (hp : p.wf) {base : List Event} {s t : State} (hs : FramesFrom p base s)
    (h : tick s = .next t) : FramesFrom p base t := by
  obtain ⟨rfl, events, htrace, hsent, hpend⟩ := hs
  obtain ⟨m, ms, hc, rfl⟩ | ⟨-, -, rfl⟩ | ⟨r, rest, i, hc, -, hd, -, rfl⟩ := tick_next h
  · rw [hc] at hpend
    rcases hm : perform m s with ⟨u, f⟩
    obtain ⟨es, hes, hnew, hrest⟩ := perform_frames hpend hm
    have hparams : u.params = s.params := by simpa [hm] using (perform_config m s).1
    have htrace' : u.trace = base ++ (events ++ es) := by rw [hes, htrace, List.append_assoc]
    have hsent' : ∀ bytes ∈ sentFrames none (events ++ es), isFrame s.params bytes := by
      rw [sentFrames_append]
      exact fun bytes hb => (List.mem_append.mp hb).elim (hsent bytes) (hnew bytes)
    have hopen := openFrame_append none events es
    cases f <;> simp only [advanceMicro, hm] <;> refine ⟨hparams, _, htrace', hsent', ?_⟩ <;> rw [hopen]
    case go => exact sendsFrames_congr (s := u) hrest (.of_view rfl)
    case again =>
      rw [hrest.1]
      exact sendsFrames_congr (s := u) (sendsFrames_gate (hparams ▸ hp) hrest.2) (.of_view rfl)
    case halt => exact hrest
  · exact ⟨rfl, events, htrace, hsent, hpend⟩
  · have hnone : openFrame none events = none := by rw [hc] at hpend; exact hpend
    refine ⟨rfl, events, htrace, hsent, ?_⟩
    rw [hnone]
    exact sendsFrames_congr (s := s) (sendsFrames_programOf hp (wf_of_decode hd)) (.of_view rfl)

/-- Settles O54: what is pending is well formed in every program, and a tick sends only what was pending. -/
theorem framesWellFormed : Obligations.FramesWellFormed := by
  refine ⟨fun s t hs h => ?_, fun i s t _ hp hwf h => ?_⟩
  · obtain ⟨hp, hframes⟩ := framesInv_iff.mp hs
    have ht := step_keeps_of_tick (fun _ _ => tick_framesFrom hp) hframes h
    exact framesInv_iff.mpr ⟨ht.1 ▸ hp, by rw [ht.1]; exact ht⟩
  · obtain ⟨-, -, rfl⟩ := exec_next h
    rw [← drain_control _ _ (programOf s.params s.expectedId i)]
    obtain ⟨k, hk⟩ := ticks_drain _ { s with
      latch := some i, result := none, control := programOf s.params s.expectedId i } rfl (programOf_ne_nil _ _ _)
    have hstart : FramesFrom s.params s.trace { s with
        latch := some i, result := none, control := programOf s.params s.expectedId i } :=
      ⟨rfl, [], (List.append_nil _).symm, nofun,
        sendsFrames_congr (s := s) (sendsFrames_programOf hp hwf) (.of_view rfl)⟩
    obtain ⟨-, events, htrace, hsent, -⟩ := ticks_keep (fun _ _ => tick_framesFrom hp) hstart hk
    exact ⟨events, htrace, hsent⟩

end Sys2Proof.Machine
end

section
/-! PROOFS. Blocks on a data line whose answers are given: what a command cycle sends and stores, and the one-command operations
(40_dispatcher.md R146, R147) with their gates passing at the first poll. -/

namespace Sys2Proof.Machine

/-! ## Storing what is received -/

/-- The state after bytes have been received one after another. -/
def storeAll : List Keep → List Byte → State → State
  | k :: ks, r :: rs, s => storeAll ks rs (k.store r s)
  | _, _, s => s

theorem storeAll_append {ks : List Keep} {rs : List Byte} (h : rs.length = ks.length) (ks' : List Keep) (rs' : List Byte) (s : State) :
    storeAll (ks ++ ks') (rs ++ rs') s = storeAll ks' rs' (storeAll ks rs s) := by
  induction ks generalizing rs s with
  | nil => obtain rfl : rs = [] := List.length_eq_zero_iff.mp h; rfl
  | cons k ks ih =>
    cases rs with
    | nil => cases h
    | cons r rs => exact ih (Nat.succ.inj h) _

theorem storeAll_drops {ks : List Keep} (h : ∀ k ∈ ks, k = .drop) (rs : List Byte) (s : State) : storeAll ks rs s = s := by
  induction ks generalizing rs with
  | nil => rfl
  | cons k ks ih =>
    obtain ⟨rfl, hks⟩ := List.forall_mem_cons.mp h
    cases rs with
    | nil => rfl
    | cons r rs => exact ih hks rs

/-- Bytes streamed into a buffer (41_read.md R171). -/
theorem storeAll_buf (buf : BufRef) (k : Nat) (rs : List Byte) (s : State) :
    storeAll ((List.range' k rs.length).map (.buf buf)) rs s = { s with hostMem := Memory.fill s.hostMem (buf + k) rs } := by
  induction rs generalizing k s with
  | nil => rfl
  | cons r rs ih => exact ih (k + 1) _

theorem storeAll_keepInBuf (buf : BufRef) (rs : List Byte) (s : State) :
    storeAll (keepInBuf ⟨buf, rs.length⟩) rs s = { s with hostMem := Memory.fill s.hostMem buf rs } := by
  rw [keepInBuf, List.range_eq_range']
  exact storeAll_buf buf 0 rs s

/-- The erased-byte test over a region (R172). -/
theorem storeAll_allFF (rs : List Byte) (s : State) :
    storeAll (List.replicate rs.length .allFF) rs s = { s with allFF := s.allFF && rs.all (· == 0xFF) } := by
  induction rs generalizing s with
  | nil => simp [storeAll]
  | cons r rs ih =>
    refine (ih _).trans ?_
    simp [Keep.store, erasedByte, Bool.and_assoc]

/-- The eight bytes of `UID` (44_lifecycle.md R217). -/
theorem storeAll_uid (uid : Vector Byte 8) (s : State) :
    storeAll ((List.finRange 8).map .uid) uid.toList s = { s with uid := uid } := by
  have hlist : uid.toList = (List.finRange 8).map fun i => uid[i.val] := by
    apply List.ext_getElem <;> simp
  rw [hlist]
  simp only [List.finRange_succ, List.finRange_zero, List.map_cons, List.map_nil, storeAll, Keep.store]
  congr 1
  ext i hi
  interval_cases i <;> simp

/-! ## After a command cycle -/

/-- The state after command cycles on a line: their events in the trace, the answers taken, the bus released. -/
def State.cycled (s : State) (events : List Event) (rest : List Byte) : State :=
  { s with busHeld := false, csLevel := .high, trace := s.trace ++ events, env := .line rest }

@[simp] theorem State.cycled_cycled (s : State) (es fs : List Event) (r r' : List Byte) :
    (s.cycled es r).cycled fs r' = s.cycled (es ++ fs) r' := by
  simp [State.cycled]

@[simp] theorem frameCycle_cycled (s : State) (es : List Event) (r : List Byte) : frameCycle (s.cycled es r) = frameCycle s := rfl
@[simp] theorem bodyBytes_cycled (s : State) (es : List Event) (r : List Byte) (body : List (Out × Keep)) :
    bodyBytes (s.cycled es r) body = bodyBytes s body := (SameView.of_view rfl).same_bodyBytes body

/-- Storing depends on no bus register and on no trace or environment. -/
theorem storeAll_bus (ks : List Keep) (rs : List Byte) (s : State) (held : Bool) (level : Level) (tr : List Event) (e : Env) :
    storeAll ks rs { s with busHeld := held, csLevel := level, trace := tr, env := e } =
      { storeAll ks rs s with busHeld := held, csLevel := level, trace := tr, env := e } := by
  induction ks generalizing rs s with
  | nil => rfl
  | cons k ks ih =>
    cases rs with
    | nil => rfl
    | cons r rs => exact (by cases k <;> rfl : storeAll _ _ _ = _).trans (ih rs (k.store r s))

theorem storeAll_trace (ks : List Keep) (rs : List Byte) (s : State) : (storeAll ks rs s).trace = s.trace :=
  (congrArg State.trace (storeAll_bus ks rs s s.busHeld s.csLevel s.trace s.env) :)

theorem storeAll_env (ks : List Keep) (rs : List Byte) (s : State) : (storeAll ks rs s).env = s.env :=
  (congrArg State.env (storeAll_bus ks rs s s.busHeld s.csLevel s.trace s.env) :)

theorem storeAll_cycled (ks : List Keep) (rs : List Byte) (s : State) (es : List Event) (r : List Byte) :
    (storeAll ks rs s).cycled es r = storeAll ks rs (s.cycled es r) := by
  rw [State.cycled, storeAll_trace]
  exact (storeAll_bus ..).symm

/-! ## A command cycle -/

/-- What transfers send does not depend on what they receive: everything received is discarded, or nothing sent is read from a buffer. -/
def Steady (body : List (Out × Keep)) : Prop :=
  ∀ t ∈ body, ∀ u ∈ body, ∀ (r : Byte) (s : State), u.1.eval (t.2.store r s) = u.1.eval s

theorem Steady.of_cons {t : Out × Keep} {body : List (Out × Keep)} (h : Steady (t :: body)) : Steady body :=
  fun u hu v hv => h u (List.mem_cons_of_mem _ hu) v (List.mem_cons_of_mem _ hv)

/-- The byte sent is not read from the host's memory. -/
def Out.fixed : Out → Bool
  | .buf _ _ => false
  | .byte _ | .opcode _ | .fill | .addrHigh | .addrMid | .addrLow => true

theorem Steady.of_drop {body : List (Out × Keep)} (h : ∀ t ∈ body, t.2 = .drop) : Steady body :=
  fun t ht _ _ r s => by rw [h t ht]; rfl

theorem Steady.of_fixed {body : List (Out × Keep)} (h : ∀ t ∈ body, t.1.fixed = true) : Steady body := by
  intro t _ u hu r s
  rcases t with ⟨_, k⟩
  rcases u with ⟨o, _⟩
  have ho := h _ hu
  cases o
  case buf => cases ho
  all_goals cases k <;> rfl

theorem drain_transfers_line {body : List (Out × Keep)} (hbody : Steady body) {s : State} {rs rest : List Byte}
    (henv : s.env = .line (rs ++ rest)) (hlen : rs.length = body.length) (ms : List Micro) :
    drain (transfers body ++ ms) s =
      drain ms (storeAll (body.map (·.2)) rs { s with
        trace := s.trace ++ ((bodyBytes s body).zip rs).map (fun t => .xfer t.1 t.2), env := .line rest }) := by
  induction body generalizing s rs with
  | nil =>
    obtain rfl : rs = [] := List.length_eq_zero_iff.mp hlen
    simp at henv
    simp [transfers, bodyBytes, storeAll, ← henv]
  | cons t body ih =>
    cases rs with
    | nil => cases hlen
    | cons r rs =>
      let s' : State := { s with trace := s.trace ++ [.xfer (t.1.eval s) r], env := .line (rs ++ rest) }
      have hbytes : bodyBytes (t.2.store r s') body = bodyBytes s body := List.map_congr_left fun u hu =>
        (hbody t (by simp) u (List.mem_cons_of_mem _ hu) r s').trans ((SameView.of_view rfl).eval u.1)
      have hstored : (t.2.store r s').trace = s'.trace ∧ (t.2.store r s').env = s'.env := by cases t.2 <;> exact ⟨rfl, rfl⟩
      refine (drain_xfer_line henv t.1 t.2 _).trans ((ih hbody.of_cons hstored.2 (Nat.succ.inj hlen)).trans ?_)
      rw [hbytes, hstored.1]
      simp only [List.map_cons, storeAll, bodyBytes, List.zip_cons_cons, s']
      congr 2
      cases t.2 <;> simp [Keep.store]

/-- `deselect()` after transfers. -/
theorem drain_deselect_cycled {s : State} {rest : List Byte} (henv : s.env = .line rest) (ms : List Micro) :
    drain (deselect ++ ms) s = drain ms (s.cycled [.cs .high, .finish] rest) := by
  rw [drain_deselect_line henv, State.cycled, ← henv]

/-- A command cycle that sends the frame of an instruction. -/
theorem drain_cycle_line {w : Wire} {body : List (Out × Keep)} (hbody : Steady body) {s : State} {j : Instr}
    (henc : encodeFrame s.params j = s.params.opcodes.byte w :: bodyBytes s body) {received rest : List Byte}
    (henv : s.env = .line (received ++ rest)) (hlen : received.length = body.length + 1) (ms : List Micro) :
    drain ((Block.cycle w body).micros ++ ms) s =
      drain ms (storeAll (body.map (·.2)) received.tail (s.cycled (frameCycle s j received) rest)) := by
  cases received with
  | nil => cases hlen
  | cons r rs =>
    have hmicros : (Block.cycle w body).micros ++ ms =
        select ++ .xfer (.opcode w) .drop :: (transfers body ++ (deselect ++ ms)) := by simp [Block.micros]
    have hbytes : bodyBytes (s.dispatched w r (rs ++ rest)) body = bodyBytes s body :=
      (SameView.of_view rfl).same_bodyBytes body
    have henv' : s.env = .line (r :: (rs ++ rest)) := henv
    rw [hmicros, drain_opcode_line henv', drain_transfers_line hbody rfl (Nat.succ.inj hlen),
      drain_deselect_cycled (storeAll_env ..), storeAll_cycled, hbytes]
    congr 2
    simp [State.cycled, State.dispatched, frameCycle, cycle, henc]

/-- A gate that passes at its first poll. -/
theorem drain_gate_line {s : State} {x st : Byte} {rest : List Byte} (henv : s.env = .line (x :: st :: rest))
    (hst : busyBit st = false) (ms : List Micro) :
    drain (Block.gate.micros ++ ms) s = drain ms ({ s with st := st }.cycled (pollCycle s x st) rest) :=
  drain_gate_ready henv hst ms

section
variable {s : State} (hp : s.params.opcodes.distinct) {w : Wire} (hw : w ≠ .wake) {body : List (Out × Keep)} {j : Instr}
  (henc : encodeFrame s.params j = s.params.opcodes.byte w :: bodyBytes s body) {received rest : List Byte}
  (hlen : received.length = body.length + 1)
include hp hw henc hlen

/-- A gated command. -/
theorem drain_plainBlocks_line (hbody : Steady body) {x st : Byte} (henv : s.env = .line (x :: st :: received ++ rest))
    (hst : busyBit st = false) (ms : List Micro) :
    drain (micros (plainBlocks s.params w body) ++ ms) s =
      drain ms (storeAll (body.map (·.2)) received.tail ({ s with st := st }.cycled (gated s x st j received) rest)) := by
  have hbytes : bodyBytes { s with st := st } body = bodyBytes s body := (SameView.of_view rfl).same_bodyBytes body
  rw [plainBlocks_gated hp hw, micros_cons, micros_cons, micros_nil, List.append_nil, List.append_assoc, drain_gate_line henv hst,
    drain_cycle_line hbody (by rw [bodyBytes_cycled, hbytes]; exact henc) rfl hlen, frameCycle_cycled, State.cycled_cycled]
  rfl

/-- A write-type command, which discards what it receives. -/
theorem drain_writeBlocks_line (hbody : ∀ t ∈ body, t.2 = .drop) {g : Arming} (henv : s.env = .line (g.bytes ++ received ++ rest))
    (hg : g.ready = true) (ms : List Micro) :
    drain (micros (writeBlocks s.params w body) ++ ms) s =
      drain ms ({ s with st := g.st2 }.cycled (armed s g j received) rest) := by
  obtain ⟨hst1, hst2⟩ : busyBit g.st1 = false ∧ busyBit g.st2 = false := by simpa [Arming.ready] using hg
  have hbytes (st : Byte) : bodyBytes { s with st := st } body = bodyBytes s body :=
    (SameView.of_view rfl).same_bodyBytes body
  have henable := drain_plainBlocks_line hp (w := .writeEnable) (by decide) (body := []) (j := .writeEnable) rfl
    (received := [g.w]) (rest := g.x2 :: g.st2 :: received ++ rest) rfl (Steady.of_drop (by simp))
    (by simpa [Arming.bytes] using henv) hst1
  have hcommand := drain_plainBlocks_line (s := { s with st := g.st1 }.cycled (gated s g.x1 g.st1 .writeEnable [g.w])
    (g.x2 :: g.st2 :: received ++ rest)) hp hw (by rw [bodyBytes_cycled, hbytes]; exact henc) hlen (Steady.of_drop hbody) rfl hst2 ms
  rw [writeBlocks, micros_append, List.append_assoc, henable]
  refine hcommand.trans ?_
  rw [storeAll_drops (by simpa using fun k o h => hbody (o, k) h)]
  congr 1
  simp only [State.cycled, armed, List.append_assoc]
  rfl

end

end Sys2Proof.Machine
end

section
/-! PROOFS. The operations of one command (files 40, 41, 43, 44 and 30_encoding.md R102 to R115) on a data line whose polls read ready. -/

namespace Sys2Proof.Machine

/-! ## An accepted operation -/

/-- What runs when `exec` accepts a request. -/
def State.accepted (s : State) (i : Instr) : State := { s with latch := some i, result := none }

theorem exec_ready_blocks {i : Instr} {s : State} (hs : s.Ready) (hi : i ≠ .initDevice) :
    exec i s = .next (drain (micros (bodyBlocks s.params s.expectedId i) ++ [.ret (retOf i)]) (s.accepted i)) := by
  rw [exec_of_ready hs hi, programOf_eq, blocksOf, micros_append]
  rfl

/-- The address operand goes to `A` first. -/
theorem drain_setA_blocks (a : Addr) (bs : List Block) (ms : List Micro) (s : State) :
    drain (micros (.line (.setA a) :: bs) ++ ms) s = drain (micros bs ++ ms) { s with a := a } := rfl

section
variable {s : State} (hs : s.Ready) {i : Instr} (hi : i ≠ .initDevice) {w : Wire} (hw : w ≠ .wake) {body : List (Out × Keep)}
  {j : Instr} {received rest : List Byte} (hlen : received.length = body.length + 1)
include hs hi hw hlen

/-- An operation that is one gated command. -/
theorem exec_plainBlocks_line (hblocks : bodyBlocks s.params s.expectedId i = plainBlocks s.params w body)
    (henc : encodeFrame s.params j = s.params.opcodes.byte w :: bodyBytes s body) (hbody : Steady body) {x st : Byte}
    (henv : s.env = .line (x :: st :: received ++ rest)) (hst : busyBit st = false) :
    exec i s = .next (drain [.ret (retOf i)]
      (storeAll (body.map (·.2)) received.tail ({ s.accepted i with st := st }.cycled (gated s x st j received) rest))) := by
  rw [exec_ready_blocks hs hi, hblocks]
  exact congrArg _ (drain_plainBlocks_line (s := s.accepted i) hs.distinct hw henc hlen hbody henv hst _)

/-- An operation that is one gated command with an address. -/
theorem exec_addr_plainBlocks_line {a : Addr}
    (hblocks : bodyBlocks s.params s.expectedId i = .line (.setA a) :: plainBlocks s.params w body)
    (henc : encodeFrame s.params j = s.params.opcodes.byte w :: bodyBytes { s with a := a } body) (hbody : Steady body) {x st : Byte}
    (henv : s.env = .line (x :: st :: received ++ rest)) (hst : busyBit st = false) :
    exec i s = .next (drain [.ret (retOf i)]
      (storeAll (body.map (·.2)) received.tail ({ s.accepted i with a := a, st := st }.cycled (gated s x st j received) rest))) := by
  rw [exec_ready_blocks hs hi, hblocks, drain_setA_blocks]
  exact congrArg _ (drain_plainBlocks_line (s := { s.accepted i with a := a }) hs.distinct hw henc hlen hbody henv hst _)

/-- An operation that is one write-type command. -/
theorem exec_writeBlocks_line (hblocks : bodyBlocks s.params s.expectedId i = writeBlocks s.params w body)
    (henc : encodeFrame s.params j = s.params.opcodes.byte w :: bodyBytes s body) (hbody : ∀ t ∈ body, t.2 = .drop) {g : Arming}
    (henv : s.env = .line (g.bytes ++ received ++ rest)) (hg : g.ready = true) :
    exec i s = .next (drain [.ret (retOf i)] ({ s.accepted i with st := g.st2 }.cycled (armed s g j received) rest)) := by
  rw [exec_ready_blocks hs hi, hblocks]
  exact congrArg _ (drain_writeBlocks_line (s := s.accepted i) hs.distinct hw henc hlen hbody henv hg _)

/-- An operation that is one write-type command with an address. -/
theorem exec_addr_writeBlocks_line {a : Addr}
    (hblocks : bodyBlocks s.params s.expectedId i = .line (.setA a) :: writeBlocks s.params w body)
    (henc : encodeFrame s.params j = s.params.opcodes.byte w :: bodyBytes { s with a := a } body) (hbody : ∀ t ∈ body, t.2 = .drop)
    {g : Arming} (henv : s.env = .line (g.bytes ++ received ++ rest)) (hg : g.ready = true) :
    exec i s = .next (drain [.ret (retOf i)] ({ s.accepted i with a := a, st := g.st2 }.cycled (armed s g j received) rest)) := by
  rw [exec_ready_blocks hs hi, hblocks, drain_setA_blocks]
  exact congrArg _ (drain_writeBlocks_line (s := { s.accepted i with a := a }) hs.distinct hw henc hlen hbody henv hg _)

end

theorem drop_of_mem_addrBody {t : Out × Keep} (h : t ∈ addrBody) : t.2 = .drop := by
  revert t
  decide

/-! ## The dispatcher and the status commands -/

/-- Settles O17: one write-type command with one byte. -/
theorem statusWriteCommand : Obligations.StatusWriteCommand := fun s v g received rest hs hg hlen henv =>
  exec_writeBlocks_line hs (i := .statusWrite v) (by exact nofun) (w := .statusWrite) (by decide) (body := [(.byte v, .drop)])
    (j := .statusWrite v) hlen rfl rfl (by simp) henv hg

/-- Settles O18: one gated command with no body. -/
theorem writeEnableCommand : Obligations.WriteEnableCommand := fun s x st r rest hs hst henv =>
  exec_plainBlocks_line hs (i := .writeEnable) (by decide) (w := .writeEnable) (by decide) (body := []) (j := .writeEnable)
    (received := [r]) rfl rfl rfl (Steady.of_drop nofun) henv hst

/-- Settles O40: one gated command with no body, in both forms. -/
theorem sleep : Obligations.Sleep := by
  intro s x st r rest hs hst henv
  have h {i : Instr} (hi : i ≠ .initDevice) (hblocks : bodyBlocks s.params s.expectedId i = plainBlocks s.params .sleep []) :=
    exec_plainBlocks_line hs hi (w := .sleep) (by decide) (j := .sleepCmd) (received := [r]) rfl hblocks rfl (Steady.of_drop nofun) henv hst
  exact ⟨h (i := .sleep) (by decide) rfl, h (i := .sleepCmd) (by decide) rfl⟩

/-- Settles O42: a status read is a status poll, and a wake has no gate. -/
theorem ungatedCommands : Obligations.UngatedCommands := by
  intro s hs
  refine ⟨fun x st rest henv => ?_, fun r rest henv => ?_⟩
  · exact exec_statusPoll_ret_line (i := .statusRead) (r := .status) hs (by decide) rfl henv
  · rw [exec_of_ready hs (by decide)]
    exact congrArg _ (drain_wakeCycle_line s.params [.ret .done] (s := s.accepted .wakeCmd) henv)

/-! ## Reads -/

/-- Settles O19: one gated read whose fifth byte goes to the local `v`. -/
theorem readByte : Obligations.ReadByte := by
  intro s addr x st r0 r1 r2 r3 d rest hs hst henv
  have h {i : Instr} (hi : i ≠ .initDevice)
      (hblocks : bodyBlocks s.params s.expectedId i = bodyBlocks s.params s.expectedId (.readByte addr)) :=
    exec_addr_plainBlocks_line hs hi (w := .arrayReadLF) (by decide) (j := .arrayReadLF addr) (received := [r0, r1, r2, r3, d]) rfl
      hblocks rfl (Steady.of_fixed (by decide)) henv hst
  exact ⟨h (i := .readByte addr) nofun rfl, h (i := .arrayReadLF addr) nofun rfl⟩

/-- A streaming read: the bytes after the fifth go where `keeps` says. -/
theorem drain_readBlocks_line {s : State} (hp : s.params.opcodes.distinct) {keeps : List Keep} {x st : Byte}
    {head data rest : List Byte} (hhead : head.length = 5) (hdata : data.length = keeps.length)
    (henv : s.env = .line (x :: st :: head ++ data ++ rest)) (hst : busyBit st = false) (ms : List Micro) :
    drain (micros (readBlocks s.params keeps) ++ ms) s =
      drain ms (storeAll keeps data
        ({ s with st := st }.cycled (gated s x st (.arrayRead s.a keeps.length) (head ++ data)) rest)) := by
  have hsteady : Steady (readBody keeps) := .of_fixed fun t ht => by
    rcases readBody_out ht with h | h | h | h <;> rw [h] <;> rfl
  rw [readBlocks, drain_plainBlocks_line hp (by decide) (encodeFrame_arrayRead s keeps) (received := head ++ data)
    (by simp [readBody, addrBody, hhead, hdata]; omega) hsteady (by simpa using henv) hst]
  congr 1
  obtain ⟨h0, head, rfl⟩ := List.exists_cons_of_length_eq_add_one hhead
  have hkeeps : (readBody keeps).map (·.2) = List.replicate 4 .drop ++ keeps := by
    simp [readBody, addrBody, List.replicate, Function.comp_def]
  rw [hkeeps, List.cons_append, List.tail_cons, storeAll_append (by simpa using hhead),
    storeAll_drops fun k h => List.eq_of_mem_replicate h]

/-- Settles O21: the same read of the buffer at a reference, for both forms. -/
theorem readBytes : Obligations.ReadBytes := by
  intro s addr buf x st head data rest hs hst hhead henv
  have hread (i : Instr) (into : BufRef) :=
    drain_readBlocks_line (s := { s.accepted i with a := addr }) hs.distinct (keeps := keepInBuf ⟨into, data.length⟩) hhead
      (by simp [keepInBuf]) henv hst [.ret (.buffer data.length)]
  have hlen (into : BufRef) : (keepInBuf ⟨into, data.length⟩).length = data.length := by simp [keepInBuf]
  simp only [storeAll_keepInBuf, hlen] at hread
  constructor
  · exact (exec_ready_blocks (i := .readBytes addr ⟨buf, data.length⟩) hs nofun).trans (congrArg _ (hread _ buf))
  · exact (exec_ready_blocks (i := .arrayRead addr data.length) hs nofun).trans (congrArg _ (hread _ commandBuf))

/-- Settles O23: the read of `readBytes`, whose bytes are only tested. -/
theorem regionIsEmpty : Obligations.RegionIsEmpty := by
  intro s addr len x st head data rest hs hst hhead hdata henv
  have hread :=
    drain_readBlocks_line (s := { s.accepted (.regionIsEmpty addr len) with a := addr, allFF := true }) hs.distinct
      (keeps := List.replicate data.length .allFF) hhead (by simp) henv hst [.ret .allFF]
  rw [storeAll_allFF, List.length_replicate, hdata] at hread
  exact (exec_ready_blocks (i := .regionIsEmpty addr len) hs nofun).trans (congrArg _ hread)

/-- Settles O36: one gated read whose second and third byte make the identifier. -/
theorem readDeviceId : Obligations.ReadDeviceId := by
  intro s m rest hs hst henv
  have h {i : Instr} (hi : i ≠ .initDevice) (hblocks : bodyBlocks s.params s.expectedId i = idBlocks s.params) (hret : retOf i = .ident) :
      exec i s = .next (State.returned { s with
        st := m.st, hi := m.hi, lo := m.lo, idr := m.hi ++ m.lo, env := .line rest, trace := s.trace ++ m.events s }
        (.ident (m.hi ++ m.lo))) := by
    rw [exec_ready_blocks hs hi, hblocks, hret, idBlocks, micros_append, List.append_assoc]
    exact congrArg _ (drain_plainBlocks_line (s := s.accepted i) hs.distinct (w := .idRead) (by decide) (j := .idRead) rfl
      (received := [m.o, m.hi, m.lo]) rfl (Steady.of_fixed (by decide)) henv hst _)
  exact ⟨h (i := .readDeviceId) (by decide) rfl rfl, h (i := .idRead) (by decide) rfl rfl⟩

/-- Settles O37: the four bytes after the opcode's are discarded, the eight after them stored. -/
theorem readUniqueId : Obligations.ReadUniqueId := by
  intro s x st head rest uid hs hst hhead henv
  obtain ⟨h0, head, rfl⟩ := List.exists_cons_of_length_eq_add_one hhead
  have hhead : head.length = 4 := Nat.succ.inj hhead
  have henv' : s.env = .line (x :: st :: (h0 :: head ++ uid.toList) ++ rest) := by simpa using henv
  have hstore (t : State) : storeAll (uidBody.map (·.2)) (h0 :: head ++ uid.toList).tail t = { t with uid := uid } := by
    rw [uidBody, List.map_append, List.map_replicate, List.map_map, List.cons_append, List.tail_cons,
      storeAll_append (by simpa using hhead),
    storeAll_drops fun k h => List.eq_of_mem_replicate h]
    exact storeAll_uid uid t
  have h {i : Instr} (hi : i ≠ .initDevice) (hblocks : bodyBlocks s.params s.expectedId i = uidBlocks s.params) (hret : retOf i = .uid) :
      exec i s = .next (State.returned { s with
        st := st, uid := uid, uidValid := true, env := .line rest
        trace := s.trace ++ gated s x st .uidRead (h0 :: head ++ uid.toList) } (.uid uid)) := by
    rw [exec_ready_blocks hs hi, hblocks, hret, uidBlocks, micros_append, List.append_assoc]
    refine congrArg _ ((drain_plainBlocks_line (s := s.accepted i) hs.distinct (w := .uidRead) (by decide) (j := .uidRead) rfl
      (received := h0 :: head ++ uid.toList) (by simp [hhead, uidBody]) (Steady.of_fixed (by decide)) henv' hst _).trans ?_)
    rw [hstore]
    rfl
  exact ⟨h (i := .readUniqueId) (by decide) rfl rfl, h (i := .uidRead) (by decide) rfl rfl⟩

/-! ## Writes and erases -/

/-- A page program at the address in `A`, its payload from any source. -/
theorem drain_programBlocks_line {s : State} (hp : s.params.opcodes.distinct) {payload : List Out} {bytes : List Byte}
    (hbytes : payload.map (·.eval s) = bytes) {g : Arming} {received rest : List Byte} (hlen : received.length = 4 + payload.length)
    (henv : s.env = .line (g.bytes ++ received ++ rest)) (hg : g.ready = true) (ms : List Micro) :
    drain (micros (programBlocks s.params payload) ++ ms) s =
      drain ms ({ s with st := g.st2 }.cycled (armed s g (.pageProgram s.a bytes) received) rest) := by
  refine drain_writeBlocks_line hp (by decide) ?_ ?_ ?_ henv hg ms
  · simp [encodeFrame, Opcodes.byte, bodyBytes, addrBody, addrBytes, Out.eval, ← hbytes, Function.comp_def]
  · simp [addrBody, hlen]; omega
  · simp [addrBody]

/-- Settles O25: a page program whose bytes are operands. -/
theorem pageProgramCommand : Obligations.PageProgramCommand := by
  intro s addr payload g received rest hs hg hlen henv
  have hprogram := drain_programBlocks_line (s := { s.accepted (.pageProgram addr payload) with a := addr }) hs.distinct
    (payload := payload.map .byte) (bytes := payload) (by simp [Function.comp_def, Out.eval]) (by simpa using hlen) henv hg [.ret .done]
  exact (exec_ready_blocks (i := .pageProgram addr payload) hs nofun).trans (congrArg _ hprogram)

/-- Settles O24: a page program of one operand byte. -/
theorem writeByte : Obligations.WriteByte := by
  intro s addr value g received rest hs hg hlen henv
  have hprogram := drain_programBlocks_line (s := { s.accepted (.writeByte addr value) with a := addr }) hs.distinct
    (payload := [.byte value]) (bytes := [value]) rfl hlen henv hg [.ret .done]
  exact (exec_ready_blocks (i := .writeByte addr value) hs nofun).trans (congrArg _ hprogram)

/-- Settles O30: each is one write-type command with the address as given. -/
theorem blockErases : Obligations.BlockErases := by
  intro s addr g received rest hs hg hlen henv
  have h {i j : Instr} {w : Wire} (hi : i ≠ .initDevice) (hw : w ≠ .wake) (hret : retOf i = .done)
      (hblocks : bodyBlocks s.params s.expectedId i = .line (.setA addr) :: writeBlocks s.params w addrBody)
      (henc : encodeFrame s.params j = s.params.opcodes.byte w :: addrBytes addr) :
      exec i s = .next (State.returned { s with
        a := addr, st := g.st2, env := .line rest, trace := s.trace ++ armed s g j received } .done) := by
    refine (exec_addr_writeBlocks_line hs hi hw hlen hblocks henc (fun t => drop_of_mem_addrBody) henv hg).trans ?_
    rw [hret]
    rfl
  exact ⟨h (w := .blockErase4K) nofun (by decide) rfl rfl rfl, h (w := .blockErase32K) nofun (by decide) rfl rfl rfl,
    h (w := .blockErase64K) nofun (by decide) rfl rfl rfl, h (w := .blockErase4K) nofun (by decide) rfl rfl rfl,
    h (w := .blockErase32K) nofun (by decide) rfl rfl rfl, h (w := .blockErase64K) nofun (by decide) rfl rfl rfl⟩

/-- Settles O31: one write-type command with no body. -/
theorem chipErase : Obligations.ChipErase := by
  intro s g r rest hs hg henv
  have h {i : Instr} (hi : i ≠ .initDevice) (hblocks : bodyBlocks s.params s.expectedId i = writeBlocks s.params .chipErase []) :=
    exec_writeBlocks_line hs hi (w := .chipErase) (by decide) (j := .chipEraseCmd) (received := [r]) (rest := rest) rfl hblocks rfl
      (by simp) (by simpa using henv) hg
  exact ⟨h (i := .eraseChip) (by decide) rfl, h (i := .chipEraseCmd) (by decide) rfl⟩

end Sys2Proof.Machine
end

section
/-! PROOFS. The operations of several commands on a data line whose polls read ready: bring-up and the detection loop (44_lifecycle.md
R215, R218), and the paged write (42_write.md R187). -/

namespace Sys2Proof.Machine

/-! ## Bring-up -/

/-- A wake has no gate. -/
theorem drain_wake_blocks_line {s : State} {r : Byte} {rest : List Byte} (henv : s.env = .line (r :: rest)) (ms : List Micro) :
    drain (micros (plainBlocks s.params .wake []) ++ ms) s = drain ms (s.cycled (frameCycle s .wakeCmd [r]) rest) := by
  rw [plainBlocks_wake, micros_cons, micros_nil, List.append_nil]
  exact drain_cycle_line (Steady.of_drop (by simp)) rfl (received := [r]) henv rfl ms

/-- The identifier read of a sample. -/
theorem drain_idBlocks_line {s : State} (hp : s.params.opcodes.distinct) {m : Sample} (hst : busyBit m.st = false) {rest : List Byte}
    (henv : s.env = .line (m.bytes ++ rest)) (ms : List Micro) :
    drain (micros (idBlocks s.params) ++ ms) s =
      drain ms ({ s with st := m.st, hi := m.hi, lo := m.lo, idr := m.ident }.cycled (m.events s) rest) := by
  rw [idBlocks, micros_append, List.append_assoc]
  exact drain_plainBlocks_line hp (w := .idRead) (by decide) (j := .idRead) rfl (received := [m.o, m.hi, m.lo]) rfl
    (Steady.of_fixed (by decide)) henv hst _

/-- The status write of 0x00 at the end of bring-up. -/
theorem drain_statusWriteBlocks_line {s : State} (hp : s.params.opcodes.distinct) {v : Byte} {g : Arming} (hg : g.ready = true)
    {received rest : List Byte} (hlen : received.length = 2) (henv : s.env = .line (g.bytes ++ received ++ rest)) (ms : List Micro) :
    drain (micros (statusWriteBlocks s.params v) ++ ms) s =
      drain ms ({ s with st := g.st2 }.cycled (armed s g (.statusWrite v) received) rest) :=
  drain_writeBlocks_line hp (by decide) rfl hlen (by simp) henv hg ms

/-- The identifier check and the status write, after the wake (R215). -/
def afterWake (p : Params) (e : Ident) : List Block :=
  (if checkDisabled e then [] else idBlocks p ++ [.line .checkId]) ++ statusWriteBlocks p 0x00

/-- Bring-up as far as its wake. -/
def State.started (s : State) : State :=
  { s.accepted .initDevice with
    session := .active, csOut := true, csLevel := .high, trace := s.trace ++ [.pinmodeOut s.csId, .busStart, .cs .high] }

/-- Bring-up after its wake. -/
def State.woken (s : State) (w : Byte) (rest : List Byte) : State := s.started.cycled (frameCycle s .wakeCmd [w]) rest

/-- Bring-up after its identifier read. -/
def State.identified (s : State) (w : Byte) (m : Sample) (rest : List Byte) : State :=
  { s.woken w (m.bytes ++ rest) with st := m.st, hi := m.hi, lo := m.lo, idr := m.ident }.cycled (m.events s) rest

theorem exec_initDevice_line {s : State} (hs : s.session = .constructed) (hc : s.control = []) {w : Byte} {rest : List Byte}
    (henv : s.env = .line (w :: rest)) :
    exec .initDevice s = .next (drain (micros (afterWake s.params s.expectedId) ++ [.ret (.const true)]) (s.woken w rest)) := by
  have hblocks : micros (blocksOf s.params s.expectedId .initDevice) =
      .pinOut :: .busStart :: .csHigh ::
        (micros (plainBlocks s.params .wake []) ++ (micros (afterWake s.params s.expectedId) ++ [.ret (.const true)])) := by
    simp [blocksOf, bodyBlocks, afterWake, retOf, Block.micros]
  have hstart (ms : List Micro) : drain (.pinOut :: .busStart :: .csHigh :: ms) (s.accepted .initDevice) = drain ms s.started := by
    rw [drain_pinOut, drain_busStart, drain_csHigh, driveHigh_line (by exact henv)]
    simp [State.started, State.emit, State.accepted]
  rw [exec_of_idle (permitted_iff.mpr (.inl ⟨hs, rfl⟩)) hc, programOf_eq, hblocks]
  exact congrArg _ ((hstart _).trans (drain_wake_blocks_line (s := s.started) henv _))

/-- Bring-up from its status write on. -/
theorem drain_initStatusWrite_line {s : State} (hp : s.params.opcodes.distinct) {g : Arming} (hg : g.ready = true)
    {received rest : List Byte} (hlen : received.length = 2) (henv : s.env = .line (g.bytes ++ received ++ rest)) :
    drain (micros (statusWriteBlocks s.params 0x00) ++ [.ret (.const true)]) s =
      State.returned ({ s with st := g.st2 }.cycled (armed s g (.statusWrite 0x00) received) rest) (.bit true) := by
  rw [drain_statusWriteBlocks_line hp hg hlen henv]
  rfl

/-- Settles O33: the wake is followed by the status write at once. -/
theorem initUnchecked : Obligations.InitUnchecked := by
  intro s w g received rest hs hc hp he hg hlen henv
  rw [exec_initDevice_line hs hc (rest := g.bytes ++ received ++ rest) (by simpa using henv), afterWake,
    if_pos (by simp [he, checkDisabled])]
  refine congrArg _ ((drain_initStatusWrite_line (s := s.woken w _) hp hg hlen rfl).trans ?_)
  simp only [State.woken, State.started, State.cycled, List.append_assoc]
  rfl

/-- Bring-up as far as the identifier check (R215). -/
theorem exec_initDevice_check_line {s : State} (hs : s.session = .constructed) (hc : s.control = []) (hp : s.params.opcodes.distinct)
    (he : s.expectedId ≠ 0x0000) {w : Byte} {m : Sample} (hst : busyBit m.st = false) {rest : List Byte}
    (henv : s.env = .line (w :: m.bytes ++ rest)) :
    exec .initDevice s = .next (drain (.checkId :: (micros (statusWriteBlocks s.params 0x00) ++ [.ret (.const true)]))
      (s.identified w m rest)) := by
  rw [exec_initDevice_line hs hc (rest := m.bytes ++ rest) (by simpa using henv), afterWake,
    if_neg (by simpa [checkDisabled] using he), micros_append, micros_append, List.append_assoc, List.append_assoc]
  exact congrArg _ (drain_idBlocks_line (s := s.woken w (m.bytes ++ rest)) hp hst rfl _)

/-- Settles O34: the identifier that is read passes the check, and the status write follows. -/
theorem initMatch : Obligations.InitMatch := by
  intro s w m g received rest hs hc hp he hst hid hg hlen henv
  rw [exec_initDevice_check_line hs hc hp he hst (rest := g.bytes ++ received ++ rest) (by simpa using henv),
    drain_checkId_match (by exact hid)]
  refine congrArg _ ((drain_initStatusWrite_line (s := s.identified w m _) hp hg hlen rfl).trans ?_)
  simp only [State.identified, State.woken, State.started, State.cycled, List.append_assoc]
  rfl

/-- Settles O35: the check ends the operation after the identifier read. -/
theorem initMismatch : Obligations.InitMismatch := by
  intro s w m rest hs hc hp he hst hid henv
  rw [exec_initDevice_check_line hs hc hp he hst henv, drain_checkId_mismatch (by exact hid)]
  simp only [State.identified, State.woken, State.started, State.cycled, List.append_assoc]
  rfl

/-! ## The detection loop -/

/-- A sample's place in the loop, `FIRST` set. -/
def State.sampled (s : State) (k : Nat) (m : Sample) (first : Ident) : State :=
  { s with st := m.st, hi := m.hi, lo := m.lo, idr := m.ident, first := first, cnt := BitVec.ofNat 4 k }

/-- One turn: the sample is read and judged. -/
theorem drain_sampleBlocks_line {s : State} (hp : s.params.opcodes.distinct) (k : Nat) {m : Sample} (hst : busyBit m.st = false)
    {rest : List Byte} (henv : s.env = .line (m.bytes ++ rest)) (ms : List Micro) :
    drain (micros (sampleBlocks s.params (BitVec.ofNat 4 k)) ++ ms) s =
      drain (.judge :: ms) ((s.sampled k m s.first).cycled (m.events s) rest) := by
  rw [sampleBlocks, List.cons_append, micros_cons, micros_append, List.append_assoc, List.append_assoc]
  exact drain_idBlocks_line (s := { s with cnt := BitVec.ofNat 4 k }) hp hst henv _

/-- What the sample of turn `k + 1` is compared with: the first sample, its own if it is the first (R218). -/
theorem reference_sampled {s : State} {k : Nat} (hk : k < 10) {m : Sample} {first : Ident}
    (hfirst : if k = 0 then m.ident = first else s.first = first) (events : List Event) (rest : List Byte) :
    ((s.sampled (k + 1) m s.first).cycled events rest).reference = first := by
  have hcnt : BitVec.ofNat 4 (k + 1) = 1 ↔ k = 0 := by
    rw [← BitVec.toNat_inj, BitVec.toNat_ofNat]
    simp
    omega
  simp only [State.reference, State.cycled, State.sampled, hcnt]
  split_ifs at hfirst ⊢ <;> exact hfirst

/-- `n` turns of the loop from turn `k + 1` on. -/
def turns (p : Params) (k n : Nat) : List Block := (List.range' k n).flatMap fun i => sampleBlocks p (BitVec.ofNat 4 (i + 1))

theorem turns_succ (p : Params) (k n : Nat) : turns p k (n + 1) = sampleBlocks p (BitVec.ofNat 4 (k + 1)) ++ turns p (k + 1) n := rfl

/-- Samples that are all equal to the first and neither zero nor all ones, one turn each. -/
theorem drain_samples_line {first : Ident} (hzero : first ≠ 0x0000) (hones : first ≠ 0xFFFF) (last : Sample) (init : List Sample)
    {k n : Nat} (hk : k + init.length < 10) (hgood : ∀ m ∈ init ++ [last], busyBit m.st = false ∧ m.ident = first) {s : State}
    (hp : s.params.opcodes.distinct) (hfirst : k ≠ 0 → s.first = first) {rest : List Byte}
    (henv : s.env = .line ((init ++ [last]).flatMap Sample.bytes ++ rest)) (ms : List Micro) :
    drain (micros (turns s.params k (init.length + 1 + n)) ++ ms) s =
      drain (micros (turns s.params (k + init.length + 1) n) ++ ms)
        ((s.sampled (k + init.length + 1) last first).cycled ((init ++ [last]).flatMap (Sample.events s)) rest) := by
  have hturn {m : Sample} {k n : Nat} (hk : k < 10) (hm : busyBit m.st = false ∧ m.ident = first) {s : State}
      (hp : s.params.opcodes.distinct) (hfirst : k ≠ 0 → s.first = first) {rest : List Byte} (henv : s.env = .line (m.bytes ++ rest)) :
      drain (micros (turns s.params k (n + 1)) ++ ms) s =
        drain (micros (turns s.params (k + 1) n) ++ ms) ((s.sampled (k + 1) m first).cycled (m.events s) rest) := by
    have href := reference_sampled (s := s) hk (m := m) (first := first) (by split_ifs with h; exacts [hm.2, hfirst h]) (m.events s) rest
    rw [turns_succ, micros_append, List.append_assoc, drain_sampleBlocks_line hp (k + 1) hm.1 henv, drain_judge_good, href]
    · rfl
    · rw [href]
      simpa [badSample, State.cycled, State.sampled, hm.2] using ⟨hzero, hones⟩
  induction init generalizing k s with
  | nil =>
    rw [List.length_nil, Nat.zero_add, Nat.add_comm 1 n]
    simpa using hturn (by simpa using hk) (hgood last (by simp)) hp hfirst (by simpa using henv)
  | cons m init ih =>
    simp only [List.length_cons] at hk
    have hstart := hturn (k := k) (n := init.length + 1 + n) (by omega) (hgood m (by simp)) hp hfirst
      (rest := (init ++ [last]).flatMap Sample.bytes ++ rest) (by simpa using henv)
    rw [show (m :: init).length + 1 + n = init.length + 1 + n + 1 by simp; omega, hstart]
    have hrest := ih (k := k + 1) (by omega) (fun x hx => hgood x (List.mem_cons_of_mem _ hx))
      (s := (s.sampled (k + 1) m first).cycled (m.events s) ((init ++ [last]).flatMap Sample.bytes ++ rest)) hp (fun _ => rfl) rfl
    refine hrest.trans ?_
    rw [show k + (m :: init).length + 1 = k + 1 + init.length + 1 by simp; omega]
    congr 1
    simp only [State.cycled, State.sampled, List.cons_append, List.flatMap_cons, List.append_assoc]
    rfl

/-- The program of `found` from its loop on. -/
theorem exec_found_line {s : State} (hs : s.Ready) {w : Byte} {rest : List Byte} (henv : s.env = .line (w :: rest)) :
    exec .found s = .next (drain (micros (turns s.params 0 10) ++ [.ret (.const true)])
      ((s.accepted .found).cycled (frameCycle s .wakeCmd [w]) rest)) := by
  have hloop : bodyBlocks s.params s.expectedId .found = plainBlocks s.params .wake [] ++ turns s.params 0 10 := rfl
  rw [exec_ready_blocks hs (by decide), hloop, micros_append, List.append_assoc]
  exact congrArg _ (drain_wake_blocks_line (s := s.accepted .found) henv _)

/-- Settles O38: ten turns of the loop, each judged good. -/
theorem foundTrue : Obligations.FoundTrue := by
  intro s w samples last rest hs hlen hlast hgood hzero hones henv
  obtain ⟨init, rfl⟩ := List.getLast?_eq_some_iff.mp hlast
  have hinit : init.length = 9 := by simpa using hlen
  have hloop := drain_samples_line hzero hones last init (k := 0) (n := 0) (by omega) hgood
    (s := (s.accepted .found).cycled (frameCycle s .wakeCmd [w]) ((init ++ [last]).flatMap Sample.bytes ++ rest)) hs.distinct
    (fun h => absurd rfl h) rfl [.ret (.const true)]
  rw [hinit] at hloop
  rw [exec_found_line hs (rest := (init ++ [last]).flatMap Sample.bytes ++ rest) (by simpa using henv)]
  refine congrArg _ (hloop.trans ?_)
  simp only [State.returned, State.cycled, State.sampled, List.append_assoc]
  rfl

/-- A sample that breaks a requirement ends the loop with false. -/
theorem drain_badSample_line {first : Ident} {bad : Sample} (hst : busyBit bad.st = false)
    (hbad : bad.ident = 0x0000 ∨ bad.ident = 0xFFFF ∨ bad.ident ≠ first) {k n : Nat} (hk : k < 10) {s : State}
    (hp : s.params.opcodes.distinct) (hfirst : if k = 0 then bad.ident = first else s.first = first) {rest : List Byte}
    (henv : s.env = .line (bad.bytes ++ rest)) (ms : List Micro) :
    drain (micros (turns s.params k (n + 1)) ++ ms) s =
      { ((s.sampled (k + 1) bad first).cycled (bad.events s) rest).finish (.bit false) with control := [] } := by
  have href := reference_sampled (s := s) hk (m := bad) hfirst (bad.events s) rest
  rw [turns_succ, micros_append, List.append_assoc, drain_sampleBlocks_line hp (k + 1) hst henv, drain_judge_bad, href]
  · rfl
  · rw [href]
    simpa [badSample, State.cycled, State.sampled, or_assoc] using hbad

/-- Settles O39: the samples before the bad one are passed, and the bad one is judged. -/
theorem foundFalse : Obligations.FoundFalse := by
  intro s w good bad rest hs hlen first hgood hst hbad henv
  have hexec := exec_found_line hs (w := w) (rest := (good ++ [bad]).flatMap Sample.bytes ++ rest) (by simpa using henv)
  rw [hexec]
  rcases List.eq_nil_or_concat good with rfl | ⟨init, last, rfl⟩
  · have hjudge := drain_badSample_line (first := first) hst hbad (k := 0) (n := 9) (by decide)
      (s := (s.accepted .found).cycled (frameCycle s .wakeCmd [w]) (bad.bytes ++ rest)) hs.distinct rfl rfl [.ret (.const true)]
    simp only [List.nil_append, List.flatMap_singleton]
    refine congrArg _ (hjudge.trans ?_)
    simp only [State.returned, State.cycled, State.sampled, State.finish, List.append_assoc]
    rfl
  · simp only [List.concat_eq_append, List.length_append, List.length_singleton] at hlen hgood ⊢
    obtain ⟨-, hlast, hzero, hones⟩ := hgood last (by simp)
    obtain ⟨n, hn⟩ : ∃ n, 10 = init.length + 1 + (n + 1) := ⟨8 - init.length, by omega⟩
    have hloop := drain_samples_line (hlast ▸ hzero) (hlast ▸ hones) last init (k := 0) (n := n + 1) (by omega)
      (fun m hm => ⟨(hgood m hm).1, (hgood m hm).2.1⟩) (s := (s.accepted .found).cycled (frameCycle s .wakeCmd [w])
        ((init ++ [last]).flatMap Sample.bytes ++ (bad.bytes ++ rest))) hs.distinct (fun h => absurd rfl h) rfl [.ret (.const true)]
    have hjudge := drain_badSample_line hst hbad (k := 0 + init.length + 1) (n := n) (by omega)
      (s := (((s.accepted .found).cycled (frameCycle s .wakeCmd [w])
        ((init ++ [last]).flatMap Sample.bytes ++ (bad.bytes ++ rest))).sampled (0 + init.length + 1) last first).cycled
          ((init ++ [last]).flatMap (Sample.events s)) (bad.bytes ++ rest)) hs.distinct (by simp; rfl) rfl [.ret (.const true)]
    rw [hn, List.flatMap_append, List.append_assoc, List.flatMap_singleton]
    refine congrArg _ (hloop.trans (hjudge.trans ?_))
    simp only [State.returned, State.cycled, State.sampled, State.finish, List.append_assoc, List.flatMap_append, List.flatMap_singleton,
      Nat.zero_add]
    rfl

/-! ## The paged write -/

theorem planFrom_eq_nil {fuel : Nat} {a : Addr} {off rem : Nat} (hfuel : rem ≤ fuel) (h : planFrom fuel a off rem = []) : rem = 0 := by
  have := (planFrom_covers [] 0 a off hfuel).1
  simpa [h] using this.symm

/-- One turn of the planner's loop: the chunk's page program, then the registers advance (R186, R187). -/
theorem drain_chunkBlocks_line {s : State} (hp : s.params.opcodes.distinct) (hturn : s.AtTurn) (hrem : s.rem ≠ 0) (buf : BufRef)
    {c : Chunk} (hc : c = ⟨s.a, s.off, nextSize s.a s.rem⟩) {r : ChunkReply} (hr : r.fits c) {rest : List Byte}
    (henv : s.env = .line (r.bytes ++ rest)) (ms : List Micro) :
    drain (micros (chunkBlocks s.params buf c.size) ++ ms) s =
      drain ms ({ s.chunkDone with st := r.arming.st2 }.cycled (c.events s buf r) rest) := by
  subst hc
  have hpayload : (bufPayload buf (nextSize s.a s.rem)).map (·.eval s.chunkTaken) =
      Chunk.payload s.hostMem buf ⟨s.a, s.off, nextSize s.a s.rem⟩ := by
    simp [bufPayload, Chunk.payload, Out.eval, State.chunkTaken, Function.comp_def]
  have hprogram := drain_programBlocks_line (s := s.chunkTaken) hp hpayload (by simpa [bufPayload] using hr.2)
    (rest := rest) (by exact henv) hr.1 (.advance :: ms)
  have hadvance (events : List Event) : perform .advance ({ s.chunkTaken with st := r.arming.st2 }.cycled events rest) =
      ({ s.chunkDone with st := r.arming.st2 }.cycled events rest, .go) := by
    simp [perform, State.cycled, State.chunkDone, State.chunkTaken, nextSize_toNat hrem]
  rw [chunkBlocks, List.cons_append, micros_cons, micros_append, List.append_assoc, List.append_assoc]
  exact (drain_go (hturn.takeChunk hrem) _).trans (hprogram.trans (drain_go (hadvance _) ms))

/-- The planner's registers after its last turn, which took the chunk `c` and received `r` (R187). -/
def State.planned (s : State) (c : Chunk) (r : ChunkReply) : State :=
  { s with
    a := s.a + BitVec.ofNat 24 s.rem, rem := 0, off := s.off + s.rem, cap := 256, n := BitVec.ofNat 9 c.size, st := r.arming.st2 }

/-- The last turn takes all that remains. -/
theorem State.chunkDone_last {s : State} (h : nextSize s.a s.rem = s.rem) (r : ChunkReply) :
    { s.chunkDone with st := r.arming.st2 } = s.planned ⟨s.a, s.off, nextSize s.a s.rem⟩ r := by
  simp [State.chunkDone, State.chunkTaken, State.planned, h, advanceAddr]

/-- A turn before the last moves none of the last values. -/
theorem State.planned_chunkDone {s : State} (h : nextSize s.a s.rem ≤ s.rem) (c : Chunk) (r : ChunkReply) :
    s.chunkDone.planned c r = s.planned c r := by
  obtain ⟨k, hk⟩ := Nat.exists_eq_add_of_le h
  have ha : s.a + BitVec.ofNat 24 (nextSize s.a s.rem) + BitVec.ofNat 24 (s.rem - nextSize s.a s.rem) = s.a + BitVec.ofNat 24 s.rem := by
    rw [BitVec.add_assoc, ← BitVec.ofNat_add, Nat.add_sub_cancel' h]
  have hoff : s.off + nextSize s.a s.rem + (s.rem - nextSize s.a s.rem) = s.off + s.rem := by omega
  simp [State.planned, State.chunkDone, State.chunkTaken, advanceAddr, ha, hoff]

/-- The planner's loop: one page program for each chunk, in order. -/
theorem drain_plan_line {fuel : Nat} {s : State} (hp : s.params.opcodes.distinct) (hturn : s.AtTurn) (hfuel : s.rem ≤ fuel)
    (buf : BufRef) {replies : List ChunkReply} (hfits : List.Forall₂ ChunkReply.fits (planFrom fuel s.a s.off s.rem) replies)
    {c : Chunk} {r : ChunkReply} (hc : (planFrom fuel s.a s.off s.rem).getLast? = some c) (hr : replies.getLast? = some r)
    {rest : List Byte} (henv : s.env = .line (replies.flatMap ChunkReply.bytes ++ rest)) (ms : List Micro) :
    drain (micros ((planFrom fuel s.a s.off s.rem).flatMap fun c => chunkBlocks s.params buf c.size) ++ ms) s =
      drain ms ((s.planned c r).cycled
        (((planFrom fuel s.a s.off s.rem).zip replies).flatMap fun p => p.1.events s buf p.2) rest) := by
  induction fuel generalizing s replies with
  | zero => cases hc
  | succ fuel ih =>
    have hrem : s.rem ≠ 0 := fun h => by rw [h, planFrom_done] at hc; cases hc
    obtain ⟨hpos, -, hle, -⟩ := nextSize_bounds (a := s.a) hrem
    rw [planFrom_succ _ _ _ hrem] at hfits hc ⊢
    cases hfits with
    | @cons _ r₀ _ replies hfit hfits =>
      rw [List.flatMap_cons, List.append_assoc] at henv
      rw [List.flatMap_cons, micros_append, List.append_assoc, List.zip_cons_cons, List.flatMap_cons,
        drain_chunkBlocks_line hp hturn hrem buf rfl hfit henv]
      by_cases hlast : s.rem - nextSize s.a s.rem = 0
      · rw [hlast, planFrom_done] at hfits hc ⊢
        cases hfits
        obtain rfl := Option.some.inj hc
        obtain rfl := Option.some.inj hr
        rw [State.chunkDone_last (by omega)]
        simp
      · have hchunks : planFrom fuel (advanceAddr s.a (nextSize s.a s.rem)) (s.off + nextSize s.a s.rem)
            (s.rem - nextSize s.a s.rem) ≠ [] :=
          fun h => hlast (planFrom_eq_nil (by omega) h)
        have hreplies : replies ≠ [] := fun h => hchunks (by simpa [h] using hfits)
        rw [List.getLast?_cons_of_ne_nil hchunks] at hc
        rw [List.getLast?_cons_of_ne_nil hreplies] at hr
        have hrest := ih (s := { s.chunkDone with st := r₀.arming.st2 }.cycled
          (Chunk.events s buf ⟨s.a, s.off, nextSize s.a s.rem⟩ r₀) (replies.flatMap ChunkReply.bytes ++ rest))
          hp s.chunkDone_atTurn (by show s.rem - _ ≤ fuel; omega) hfits hc hr rfl
        refine hrest.trans (congrArg _ ?_)
        refine Eq.trans ?_ (congrArg (State.cycled · _ rest) (State.planned_chunkDone hle c r))
        simp only [State.cycled, State.planned, List.append_assoc]
        rfl

/-- Settles O26: the planner's loop from its first turn. -/
theorem writeBytes : Obligations.WriteBytes := by
  intro s addr buf len replies c r rest hs hfits hc hr henv
  have hplan := drain_plan_line (s := { s.accepted (.writeBytes addr ⟨buf, len⟩) with
    a := addr, rem := len, off := 0, cap := BitVec.ofNat 9 (firstChunk addr) })
    hs.distinct (.inr (firstChunk_toNat addr)) (Nat.le_refl len) buf hfits hc hr henv [.ret .done]
  refine (exec_ready_blocks (i := .writeBytes addr ⟨buf, len⟩) hs nofun).trans (congrArg _ (hplan.trans ?_))
  simp [State.planned, State.cycled, State.accepted, State.returned, drain_ret, State.finish, Ret.eval]
  rfl

/-- Settles O27: the plan has no chunk. -/
theorem writeBytesNothing : Obligations.WriteBytesNothing := fun s addr buf hs => by
  exact exec_ready_blocks (i := .writeBytes addr ⟨buf, 0⟩) hs nofun

end Sys2Proof.Machine
end

section
/-! PROOFS. Gates that read busy (40_dispatcher.md R145): how many polls a gate makes, and that a busy poll adds its own cycle and
nothing else. -/

namespace Sys2Proof

open Machine in
/-- Settles O5: three transfers, and the address codec. -/
theorem sendAddr : Obligations.SendAddr := by
  refine ⟨fun s ms r2 r1 r0 rest henv => ?_, joinAddr_addrBytes⟩
  simp only [Machine.sendAddr, List.cons_append, List.nil_append]
  rw [drain_xfer_line henv, drain_xfer_line (by rfl), drain_xfer_line (by rfl)]
  simp only [Keep.store, List.append_assoc]
  rfl

end Sys2Proof

namespace Sys2Proof.Machine

/-! ## Polling at a gate -/

/-- The bytes of polls, in the order received. -/
def pollBytes (busy : List (Byte × Byte)) : List Byte := busy.flatMap fun p => [p.1, p.2]

/-- The events of polls. -/
def pollEvents (s : State) (busy : List (Byte × Byte)) : List Event := busy.flatMap fun p => pollCycle s p.1 p.2

theorem step_running {s : State} {ms : List Micro} (h : s.control = gate ++ ms) : step s = .next (drain (gate ++ ms) s) := by
  rw [stepRunsDecoded.2.2.2 s (by simp [h, gate, statusPoll, select]), h]

theorem steps_add {j : Nat} {s t : State} (h : steps j s = .next t) (k : Nat) : steps (j + k) s = steps k t := by
  induction j generalizing s with
  | zero =>
    cases h
    rw [Nat.zero_add]
  | succ j ih =>
    rw [Nat.add_right_comm]
    rcases hstep : step s with u | f | q
    · rw [steps_next hstep] at h ⊢
      exact ih h
    · simp [steps, hstep] at h
    · simp [steps, hstep] at h

/-- While every poll reads busy the operation stays at its gate (R145). -/
theorem steps_busy {busy : List (Byte × Byte)} (hbusy : ∀ p ∈ busy, busyBit p.2 = true) {s : State} {ms : List Micro}
    (hc : s.control = gate ++ ms) {rest : List Byte} (henv : s.env = .line (pollBytes busy ++ rest)) :
    ∃ st held level, steps busy.length s = .next
      { s with st := st, busHeld := held, csLevel := level, env := .line rest, trace := s.trace ++ pollEvents s busy } := by
  induction busy generalizing s with
  | nil => exact ⟨s.st, s.busHeld, s.csLevel, by simp [steps, pollEvents, pollBytes] at henv ⊢; rw [← henv]⟩
  | cons p busy ih =>
    obtain ⟨hp, hbusy⟩ := List.forall_mem_cons.mp hbusy
    have hstep := (step_running hc).trans (congrArg _ (drain_gate_busy (rest := pollBytes busy ++ rest) henv hp ms))
    obtain ⟨st, held, level, hsteps⟩ := ih hbusy (s := { s with
      st := p.2, busHeld := false, csLevel := .high, env := .line (pollBytes busy ++ rest), trace := s.trace ++ pollCycle s p.1 p.2,
      control := gate ++ ms }) rfl rfl
    refine ⟨st, held, level, ((steps_next hstep _).trans hsteps).trans ?_⟩
    simp only [pollEvents, List.flatMap_cons, List.append_assoc, ← hc]
    rfl

/-- The next poll reads not busy, and the operation goes on with what follows the gate. -/
theorem steps_passes {busy : List (Byte × Byte)} (hbusy : ∀ p ∈ busy, busyBit p.2 = true) {s : State} {ms : List Micro}
    (hc : s.control = gate ++ ms) {x st : Byte} (hst : busyBit st = false) {rest : List Byte}
    (henv : s.env = .line (pollBytes busy ++ x :: st :: rest)) :
    steps (busy.length + 1) s = .next (drain ms ({ s with st := st }.cycled (pollEvents s busy ++ pollCycle s x st) rest)) := by
  obtain ⟨st', held, level, hsteps⟩ := steps_busy hbusy hc henv
  rw [steps_add hsteps, steps_next (step_running (by exact hc)), steps, drain_gate_ready rfl hst]
  simp only [State.cycled, List.append_assoc]
  rfl

/-- Settles O11, by induction on the polls that read busy. -/
theorem gatePolls : Obligations.GatePolls := by
  intro s ms busy rest hc hbusy henv
  constructor
  · obtain ⟨st, held, level, hsteps⟩ := steps_busy hbusy hc henv
    exact ⟨_, hsteps, hc, rfl, rfl, rfl⟩
  · rintro x st rest' rfl hst
    rw [steps_passes hbusy hc hst henv, State.cycled, ← List.append_assoc]
    rfl

/-- An operation that has come to a gate passes it after any number of busy polls, each of them one more step. -/
theorem steps_gate {busy : List (Byte × Byte)} (hbusy : ∀ p ∈ busy, busyBit p.2 = true) {s : State} {x st : Byte}
    (hst : busyBit st = false) {rest : List Byte} (henv : s.env = .line (pollBytes busy ++ x :: st :: rest)) (ms : List Micro) :
    steps busy.length (drain (gate ++ ms) s) =
      .next (drain ms ({ s with st := st }.cycled (pollEvents s busy ++ pollCycle s x st) rest)) := by
  have hstep : step { s with control := gate ++ ms } = .next (drain (gate ++ ms) s) := by
    rw [step_running rfl, drain_control]
  refine (steps_next hstep _).symm.trans ((steps_passes (s := { s with control := gate ++ ms }) hbusy rfl hst henv).trans ?_)
  exact congrArg _ (drain_control ms ({ s with st := st }.cycled (pollEvents s busy ++ pollCycle s x st) rest) (gate ++ ms))

/-- The command after the gate, sent once the gate has passed. -/
theorem steps_plainBlocks_line {s : State} (hp : s.params.opcodes.distinct) {w : Wire} (hw : w ≠ .wake) {body : List (Out × Keep)}
    {j : Instr} (henc : encodeFrame s.params j = s.params.opcodes.byte w :: bodyBytes s body) {received rest : List Byte}
    (hlen : received.length = body.length + 1) (hbody : Steady body) {busy : List (Byte × Byte)}
    (hbusy : ∀ p ∈ busy, busyBit p.2 = true) {x st : Byte} (hst : busyBit st = false)
    (henv : s.env = .line (pollBytes busy ++ x :: st :: received ++ rest)) (ms : List Micro) :
    steps busy.length (drain (micros (plainBlocks s.params w body) ++ ms) s) =
      .next (drain ms (storeAll (body.map (·.2)) received.tail
        ({ s with st := st }.cycled (pollEvents s busy ++ gated s x st j received) rest))) := by
  have hbytes : bodyBytes { s with st := st } body = bodyBytes s body := (SameView.of_view rfl).same_bodyBytes body
  rw [plainBlocks_gated hp hw, micros_cons, micros_cons, micros_nil, List.append_nil, List.append_assoc]
  refine (steps_gate hbusy hst (by simpa using henv) _).trans (congrArg _ ?_)
  rw [drain_cycle_line hbody (by rw [bodyBytes_cycled, hbytes]; exact henc) rfl hlen, frameCycle_cycled, State.cycled_cycled,
    List.append_assoc]
  rfl

/-- Settles O20: one gated command whose gate is passed after the busy polls. -/
theorem readByteGated : Obligations.ReadByteGated := by
  intro s addr busy x st r0 r1 r2 r3 d rest
  refine ⟨fun hs hbusy hst henv => ⟨_, exec_ready_blocks hs nofun, ?_⟩, exec_outside_active nofun⟩
  refine (steps_plainBlocks_line (s := { s.accepted (.readByte addr) with a := addr }) hs.distinct (w := .arrayReadLF) (by decide)
    (body := addrBody ++ [(.fill, .v)]) (j := .arrayReadLF addr) (received := [r0, r1, r2, r3, d]) rfl rfl (Steady.of_fixed (by decide))
    hbusy hst (rest := rest) (by simpa [State.accepted, pollBytes] using henv) [.ret .datum]).trans ?_
  simp only [State.returned, State.cycled, List.append_assoc]
  rfl

/-- Settles O32: two gated commands, each passing its gate after its busy polls. -/
theorem eraseChipGated : Obligations.EraseChipGated := by
  intro s busy1 busy2 g r rest hs hg hbusy1 hbusy2 henv
  obtain ⟨hst1, hst2⟩ : busyBit g.st1 = false ∧ busyBit g.st2 = false := by simpa [Arming.ready] using hg
  refine ⟨_, exec_ready_blocks hs nofun, ?_⟩
  let t : State := { s.accepted .eraseChip with st := g.st1 }.cycled
    (pollEvents s busy1 ++ gated s g.x1 g.st1 .writeEnable [g.w]) (pollBytes busy2 ++ [g.x2, g.st2, r] ++ rest)
  have henable : steps busy1.length (drain (micros (plainBlocks s.params .writeEnable []) ++ (micros (plainBlocks s.params .chipErase [])
      ++ [Micro.ret .done])) (s.accepted .eraseChip)) =
        .next (drain (micros (plainBlocks s.params .chipErase []) ++ [Micro.ret .done]) t) :=
    steps_plainBlocks_line (s := s.accepted .eraseChip) hs.distinct (w := .writeEnable) (by decide) (body := []) (j := .writeEnable)
      (received := [g.w]) (rest := pollBytes busy2 ++ [g.x2, g.st2, r] ++ rest) rfl rfl (Steady.of_drop (by simp)) hbusy1 hst1
      (by simpa [State.accepted, pollBytes] using henv) (micros (plainBlocks s.params .chipErase []) ++ [Micro.ret .done])
  have hcommand := steps_plainBlocks_line (s := t) hs.distinct (w := .chipErase) (by decide) (body := []) (j := .chipEraseCmd)
    (received := [r]) (rest := rest) rfl rfl (Steady.of_drop (by simp)) hbusy2 hst2 (x := g.x2) (by simp [t, State.cycled]) [.ret .done]
  have hbody : bodyBlocks s.params s.expectedId .eraseChip =
      plainBlocks s.params .writeEnable [] ++ plainBlocks s.params .chipErase [] := rfl
  rw [show t.params = s.params from rfl] at hcommand
  rw [hbody, micros_append, List.append_assoc]
  refine (steps_add henable _).trans (hcommand.trans ?_)
  simp only [t, State.returned, State.cycled, List.append_assoc, pollEvents]
  rfl

/-! ## The first poll of an operation -/

/-- A line that comes before an operation's first gate: operands and the planner's registers. -/
def Micro.prepares : Micro → Bool
  | .setA _ | .setAllFF | .planStart _ | .takeChunk => true
  | _ => false

/-- The state after such lines. -/
def State.prepared (s : State) (ms : List Micro) : State := ms.foldl (fun u m => (perform m u).1) s

theorem drain_prepared {ms : List Micro} (h : ∀ m ∈ ms, m.prepares = true) (rest : List Micro) (s : State) :
    drain (ms ++ rest) s = drain rest (s.prepared ms) := by
  induction ms generalizing s with
  | nil => rfl
  | cons m ms ih =>
    obtain ⟨hm, hms⟩ := List.forall_mem_cons.mp h
    refine Eq.trans ?_ (ih hms (perform m s).1)
    cases m <;> first | rfl | cases hm

/-- Such lines see nothing of what a poll changes. -/
theorem State.prepared_polled {ms : List Micro} (h : ∀ m ∈ ms, m.prepares = true) (s : State) (st : Byte) (held : Bool) (level : Level)
    (e : Env) (tr : List Event) :
    { s with st := st, busHeld := held, csLevel := level, env := e, trace := tr }.prepared ms =
      { s.prepared ms with st := st, busHeld := held, csLevel := level, env := e, trace := tr } := by
  induction ms generalizing s with
  | nil => rfl
  | cons m ms ih =>
    obtain ⟨hm, hms⟩ := List.forall_mem_cons.mp h
    refine Eq.trans ?_ (ih hms (perform m s).1)
    cases m <;> first | rfl | cases hm

/-- What such lines leave alone. -/
theorem State.prepared_keeps {ms : List Micro} (h : ∀ m ∈ ms, m.prepares = true) (s : State) :
    (s.prepared ms).trace = s.trace ∧ (s.prepared ms).env = s.env ∧ (s.prepared ms).params = s.params ∧
      (s.prepared ms).busCfg = s.busCfg ∧ (s.prepared ms).latch = s.latch ∧ (s.prepared ms).result = s.result := by
  induction ms generalizing s with
  | nil => exact ⟨rfl, rfl, rfl, rfl, rfl, rfl⟩
  | cons m ms ih =>
    obtain ⟨hm, hms⟩ := List.forall_mem_cons.mp h
    obtain ⟨htrace, henv, hparams, hcfg, hlatch, hresult⟩ := ih hms (perform m s).1
    cases m <;> first | exact ⟨htrace, henv, hparams, hcfg, hlatch, hresult⟩ | cases hm

/-- The lines before an operation's first gate. -/
def setupOf : Instr → List Micro
  | .arrayReadLF addr | .readByte addr | .arrayRead addr _ | .readBytes addr _ | .pageProgram addr _ | .writeByte addr _
  | .blockErase4KCmd addr | .eraseBlock4K addr | .blockErase32KCmd addr | .eraseBlock32K addr | .blockErase64KCmd addr
  | .eraseBlock64K addr => [.setA addr]
  | .regionIsEmpty addr _ => [.setA addr, .setAllFF]
  | .writeBytes addr span => [.setA addr, .planStart span.len, .takeChunk]
  | .chipEraseCmd | .eraseChip | .statusRead | .isBusy | .readStatusRegister | .statusWrite _ | .writeEnable | .idRead
  | .readDeviceId | .uidRead | .readUniqueId | .sleepCmd | .sleep | .wakeCmd | .wakeup | .initDevice | .found | .endSession => []

theorem prepares_setupOf (i : Instr) : ∀ m ∈ setupOf i, m.prepares = true := by
  have : (setupOf i).all Micro.prepares = true := by cases i <;> rfl
  exact List.all_eq_true.mp this

/-- A gated operation comes to its first gate by such lines alone. -/
theorem bodyBlocks_gatedFirst {p : Params} (hp : p.opcodes.distinct) (e : Ident) {i : Instr} (hi : gatedFirst i = true) :
    ∃ bs, bodyBlocks p e i = (setupOf i).map Block.line ++ Block.gate :: bs := by
  have hplain w body (hw : w ≠ Wire.wake) := plainBlocks_gated hp hw body
  have hwrite w body (hw : w ≠ Wire.wake) := writeBlocks_gated hp hw body
  cases i
  case statusRead | wakeCmd | isBusy | readStatusRegister | initDevice | found | wakeup | endSession => cases hi
  case writeBytes addr span =>
    obtain ⟨fuel, hfuel⟩ := Nat.exists_eq_succ_of_ne_zero (n := span.len) (by simpa [gatedFirst] using hi)
    have hchunks := planFrom_succ fuel addr 0 (rem := span.len) (by omega)
    rw [← Nat.succ_eq_add_one, ← hfuel, ← plan_eq] at hchunks
    rw [bodyBlocks, hchunks, List.flatMap_cons, chunkBlocks, programBlocks, hwrite _ _ (by decide)]
    exact ⟨_, rfl⟩
  case arrayReadLF | readByte | arrayRead | readBytes => exact ⟨_, congrArg (_ :: ·) (hplain _ _ (by decide))⟩
  case regionIsEmpty => exact ⟨_, congrArg (_ :: _ :: ·) (hplain _ _ (by decide))⟩
  case idRead | readDeviceId | uidRead | readUniqueId => exact ⟨_, congrArg (· ++ _) (hplain _ _ (by decide))⟩
  case writeEnable | sleepCmd | sleep => exact ⟨_, hplain _ _ (by decide)⟩
  case chipEraseCmd | eraseChip | statusWrite => exact ⟨_, hwrite _ _ (by decide)⟩
  all_goals exact ⟨_, congrArg (_ :: ·) (hwrite _ _ (by decide))⟩

theorem micros_line (ms : List Micro) : micros (ms.map Block.line) = ms := by
  induction ms with
  | nil => rfl
  | cons m ms ih => exact congrArg (m :: ·) ih

/-- Settles O12: what comes before the first gate sees nothing of what the poll changes. -/
theorem busyPollWaits : Obligations.BusyPollWaits := by
  intro i s x st rest hs hi hst henv
  obtain ⟨bs, hbs⟩ := bodyBlocks_gatedFirst hs.distinct s.expectedId hi
  have hinit : i ≠ .initDevice := fun h => by rw [h] at hi; cases hi
  obtain ⟨ms, hms⟩ : ∃ ms, programOf s.params s.expectedId i = setupOf i ++ (gate ++ ms) := ⟨micros bs ++ [.ret (retOf i)], by
    rw [programOf_eq, blocksOf, hbs, micros_append, micros_append, micros_line, micros_cons, List.append_assoc, List.append_assoc]
    rfl⟩
  have hpre := prepares_setupOf i
  have hexec (u : State) (hp : u.params = s.params) (he : u.expectedId = s.expectedId) (hu : u.Ready) :
      exec i u = .next (drain (gate ++ ms) ((u.accepted i).prepared (setupOf i))) := by
    have hprogram : programOf u.params u.expectedId i = setupOf i ++ (gate ++ ms) := by rw [hp, he, hms]
    rw [exec_of_ready hu hinit, hprogram]
    exact congrArg _ (drain_prepared hpre _ (u.accepted i))
  obtain ⟨htrace, henv', hparams, hcfg, hlatch, hresult⟩ := State.prepared_keeps hpre (s.accepted i)
  have hbusy := drain_gate_busy (henv'.trans henv) hst ms
  refine ⟨_, (hexec s rfl rfl hs).trans (congrArg _ hbusy), hlatch, hresult, ⟨ms, rfl⟩, rfl, ?_, rfl, ?_⟩
  · simp only [htrace, pollCycle, hparams, hcfg]
    rfl
  · refine (step_running rfl).trans (.trans (congrArg _ ?_) (hexec { s with
      st := st, busHeld := false, csLevel := .high, env := .line rest, trace := s.trace ++ pollCycle s x st } rfl rfl
      ⟨hs.active, hs.idle, hs.distinct⟩).symm)
    refine (drain_control _ { (s.accepted i).prepared (setupOf i) with
      st := st, busHeld := false, csLevel := .high, env := .line rest
      trace := ((s.accepted i).prepared (setupOf i)).trace ++ pollCycle ((s.accepted i).prepared (setupOf i)) x st } _).trans ?_
    rw [htrace, ← State.prepared_polled hpre]
    simp only [pollCycle, hparams, hcfg]
    rfl

end Sys2Proof.Machine
end

section
/-! PROOFS. A busy poll at any gate of an operation adds its own cycle and nothing else (40_dispatcher.md R145): what a run does on a
line depends on no answer that it does not take, and on nothing that is in the trace. -/

namespace Sys2Proof.Machine

/-! ## What a run takes from a line -/

/-- How many bytes of a line a micro-operation takes. -/
def Micro.takes : Micro → Nat
  | .xfer _ _ => 1
  | _ => 0

/-- How many bytes of a line a straight run takes. -/
def takenBy (ms : List Micro) : Nat := (ms.map Micro.takes).sum

theorem takenBy_append (ms ns : List Micro) : takenBy (ms ++ ns) = takenBy ms + takenBy ns := by
  simp [takenBy]

theorem reply_line (o : Opcodes) (script : List Byte) (draws : Nat) (sent : Byte) :
    ((Env.line script).reply o draws sent).2 = (.line (script.drop 1), draws + (1 - script.length)) := by
  cases script <;> simp [Env.reply]

theorem perform_takes (m : Micro) {s : State} {script : List Byte} (henv : s.env = .line script) :
    (perform m s).1.env = .line (script.drop m.takes) ∧ (perform m s).1.draws = s.draws + (m.takes - script.length) := by
  cases m
  case xfer o k =>
    have hreply := reply_line s.params.opcodes script s.draws (o.eval s)
    simp only [perform, Keep.store_env, Keep.store_draws, State.exchange_env, State.exchange_draws, henv, hreply, Micro.takes,
      and_self]
  case checkId | judge => simp only [perform, Micro.takes]; split <;> simp [henv]
  all_goals simp [perform, Micro.takes, State.driveLow, State.driveHigh, Env.select, Env.deselect, henv]

theorem Passes.takes_line {ms : List Micro} {s t : State} (h : Passes ms s t) {script : List Byte} (henv : s.env = .line script) :
    t.env = .line (script.drop (takenBy ms)) ∧ t.draws = s.draws + (takenBy ms - script.length) := by
  induction h generalizing script with
  | nil s => exact ⟨by simpa [takenBy] using henv, by simp [takenBy]⟩
  | @cons m ms s u t hm _ ih =>
    obtain ⟨henv', hdraws⟩ := perform_takes m henv
    rw [hm] at henv' hdraws
    obtain ⟨henv, hdraws'⟩ := ih henv'
    have htakes : takenBy (m :: ms) = m.takes + takenBy ms := by simp [takenBy]
    rw [htakes, ← List.drop_drop]
    refine ⟨henv, ?_⟩
    rw [hdraws', hdraws, List.length_drop]
    omega

/-! ## What a run does not look at -/

theorem perform_rest (m : Micro) {s : State} {used rest : List Byte} (henv : s.env = .line (used ++ rest)) (hlen : m.takes ≤ used.length)
    (rest' : List Byte) :
    perform m { s with env := .line (used ++ rest') } =
      ({ (perform m s).1 with env := .line (used.drop m.takes ++ rest') }, (perform m s).2) := by
  cases m
  case xfer o k =>
    obtain ⟨r, used, rfl⟩ : ∃ r l, used = r :: l := List.exists_cons_of_length_pos hlen
    have hexchange := exchange_line (b := o.eval s) henv
    have hexchange' := exchange_line (s := { s with env := .line (r :: used ++ rest') }) (b := o.eval s) rfl
    have heval : o.eval { s with env := .line (r :: used ++ rest') } = o.eval s := (SameView.of_view rfl).eval o
    simp only [perform, heval, hexchange, hexchange']
    cases k <;> rfl
  case checkId => by_cases h : s.idr = s.expectedId <;> simp [perform, h, State.finish, Micro.takes]
  case judge =>
    have href : State.reference { s with env := .line (used ++ rest') } = s.reference := rfl
    cases h : badSample s.idr s.reference <;> simp [perform, href, h, State.finish, Micro.takes]
  case ret r => cases r <;> rfl
  case csLow => simp [perform, State.driveLow, Env.select, Micro.takes, State.emit]
  case csHigh => simp [perform, State.driveHigh, Env.deselect, Micro.takes, State.emit, henv]
  all_goals rfl

/-- A straight run on a line depends on no answer that it does not take. -/
theorem Passes.other_rest {ms : List Micro} {s t : State} (h : Passes ms s t) {used rest : List Byte} (henv : s.env = .line (used ++ rest))
    (hlen : used.length = takenBy ms) (rest' : List Byte) :
    Passes ms { s with env := .line (used ++ rest') } { t with env := .line rest' } := by
  induction h generalizing used with
  | nil s =>
    obtain rfl : used = [] := List.length_eq_zero_iff.mp (by simpa [takenBy] using hlen)
    exact .nil _
  | @cons m ms s u t hm _ ih =>
    have htakes : used.length = m.takes + takenBy ms := by simpa [takenBy] using hlen
    have hperform := perform_rest m henv (by omega) rest'
    have henv' := (perform_takes m henv).1
    rw [hm] at hperform henv'
    rw [List.drop_append_of_le_length (by omega)] at henv'
    exact .cons hperform (ih henv' (by rw [List.length_drop]; omega))

/-- A run does not look at the trace. -/
theorem perform_shift (m : Micro) (s : State) (before : List Event) :
    perform m { s with trace := before ++ s.trace } =
      ({ (perform m s).1 with trace := before ++ (perform m s).1.trace }, (perform m s).2) := by
  cases m
  case xfer o k =>
    have heval : o.eval { s with trace := before ++ s.trace } = o.eval s := (SameView.of_view rfl).eval o
    simp only [perform, heval]
    cases k <;> simp [State.exchange, State.emit, Keep.store]
  case checkId => by_cases h : s.idr = s.expectedId <;> simp [perform, h, State.finish]
  case judge =>
    have href : State.reference { s with trace := before ++ s.trace } = s.reference := rfl
    cases h : badSample s.idr s.reference <;> simp [perform, href, h, State.finish]
  case ret r => cases r <;> rfl
  all_goals simp [perform, State.driveLow, State.driveHigh, State.emit]

theorem drain_shift (ms : List Micro) (s : State) (before : List Event) :
    drain ms { s with trace := before ++ s.trace } = { drain ms s with trace := before ++ (drain ms s).trace } := by
  induction ms generalizing s with
  | nil => rfl
  | cons m ms ih =>
    have hshift := perform_shift m s before
    rcases hm : perform m s with ⟨s', f⟩
    rw [hm] at hshift
    cases f with
    | go => rw [drain_go hshift, drain_go hm, ih]
    | again => rw [drain_again hshift, drain_again hm]
    | halt => rw [drain_halt hshift, drain_halt hm]

/-- What a run has appended to the trace. -/
theorem drain_trace (ms : List Micro) (s : State) :
    drain ms s = { drain ms { s with trace := [] } with trace := s.trace ++ (drain ms { s with trace := [] }).trace } := by
  simpa using drain_shift ms { s with trace := [] } s.trace

/-- A poll overwrites `ST` and the registers of the bus before anything looks at them, so that a run from a gate on does not depend
on them. -/
theorem drain_gate_overwrites (ms : List Micro) (s : State) : ∃ after, (drain (gate ++ ms) s).trace = s.trace ++ after ∧
    ∀ (st : Byte) (held : Bool) (level : Level) (trace : List Event) (control : List Micro),
      drain (gate ++ ms) { s with st := st, busHeld := held, csLevel := level, trace := trace, control := control } =
        { drain (gate ++ ms) s with trace := trace ++ after } := by
  refine ⟨_, congrArg State.trace (drain_trace (gate ++ ms) s), fun st held level trace control => ?_⟩
  refine (drain_control (gate ++ ms) { s with st := st, busHeld := held, csLevel := level, trace := trace } control).trans ?_
  rw [drain_trace _ s]
  exact drain_trace (gate ++ ms) { s with st := st, busHeld := held, csLevel := level, trace := trace }

/-! ## The poll -/

/-- A step that leaves an operation waiting runs blocks of it, and runs the same blocks in another environment. -/
theorem step_waits {s t : State} (hs : s.OnProgram) (h : step s = .next t) (hc : t.control ≠ []) :
    ∃ i bs q l r, bs <:+ blocksOf s.params s.expectedId i ∧
      ∀ e, step { s with env := e } = .next (drain (micros bs) { s with requests := q, latch := l, result := r, env := e }) := by
  obtain ⟨hc', rfl⟩ | ⟨hc', -, rfl⟩ | ⟨r, rest, i, hc', hr, hd, he⟩ := step_next h
  · obtain hidle | ⟨i, ms, hl, hgate, hsuffix⟩ := hs
    · exact absurd hidle hc'
    · obtain ⟨bs, hbs, hms⟩ := blocks_of_gate_suffix hsuffix
      refine ⟨i, _, s.requests, s.latch, s.result, hbs, fun e => ?_⟩
      rw [← hms, ← step_running (s := { s with env := e }) hgate]
  · exact absurd hc' hc
  · obtain ⟨hp, -, -⟩ := exec_next he
    refine ⟨i, _, rest, some i, none, List.suffix_refl _, fun e => ?_⟩
    rw [← programOf_eq]
    exact (stepRunsDecoded.1 { s with env := e } r rest i hc' hr hd).trans (exec_of_idle hp hc')

theorem perform_busCfg (m : Micro) (s : State) : (perform m s).1.busCfg = s.busCfg := (perform_config m s).2.2.1

theorem Passes.busCfg {ms : List Micro} {s t : State} (h : Passes ms s t) : t.busCfg = s.busCfg := by
  induction h with
  | nil => rfl
  | @cons m _ s _ _ hm _ ih => rw [ih, ← perform_busCfg m s, hm]

theorem Passes.trace_prefix {ms : List Micro} {s t : State} (h : Passes ms s t) : s.trace <+: t.trace := by
  induction h with
  | nil => exact List.prefix_refl _
  | @cons m _ s _ _ hm _ ih =>
    have := perform_trace_prefix m s
    rw [hm] at this
    exact this.trans ih

/-- The run up to the poll that reads busy: it has taken all of the line before the poll's answers and drawn nothing. -/
theorem passes_to_busy_poll {ms : List Micro} {s v : State} {pre post : List Byte} {x st : Byte}
    (h : Passes (ms ++ statusPoll) s v) (henv : s.env = .line (pre ++ x :: st :: post)) (hpost : v.env = .line post)
    (hdraws : v.draws = s.draws) :
    ∃ w, Passes ms s w ∧ v.st = st ∧ w.env = .line (x :: st :: post) ∧ pre.length = takenBy ms := by
  obtain ⟨w, hw, hpoll⟩ := passes_append h
  obtain ⟨henvv, hdrawsv⟩ := h.takes_line henv
  have htaken : takenBy (ms ++ statusPoll) = takenBy ms + 2 := takenBy_append ms statusPoll
  have hlen : pre.length = takenBy ms := by
    have hdrop := congrArg List.length (Env.line.inj (hpost.symm.trans henvv))
    rw [htaken] at hdrop hdrawsv
    simp at hdrop hdrawsv
    omega
  have henvw : w.env = .line (x :: st :: post) := by
    rw [(hw.takes_line henv).1, ← hlen, List.drop_left]
  have hst : v.st = st := by
    have := drain_passes hpoll []
    rw [drain_statusPoll_line henvw] at this
    exact (congrArg State.st this).symm
  exact ⟨w, hw, hst, henvw, hlen⟩

/-- A run that ends at a poll that reads busy: where the poll begins, and what the run is without the poll. -/
theorem drain_without_poll {bs : List Block} (hbs : .line .gateTest ∉ bs) {s : State} {pre post : List Byte} {x st : Byte}
    (henv : s.env = .line (pre ++ x :: st :: post)) (hc : (drain (micros bs) s).control ≠ [])
    (hpost : (drain (micros bs) s).env = .line post) (hdraws : (drain (micros bs) s).draws = s.draws) :
    ∃ (ms : List Micro) (w : State), s.trace <+: w.trace ∧
      drain (micros bs) s = { w with
        st := st, busHeld := false, csLevel := .high, env := .line post, trace := w.trace ++ pollCycle s x st
        control := gate ++ ms } ∧
      drain (micros bs) { s with env := .line (pre ++ post) } = drain (gate ++ ms) { w with env := .line post } := by
  obtain ⟨v, -, he⟩ | ⟨ms₁, ms, v, hms, hv, hbusy, he⟩ | ⟨ms₁, m, ms, v, t, -, -, -, he⟩ := drain_cases (micros bs) s
  · exact absurd (by rw [he]) hc
  · obtain ⟨bs₁, bs₂, rfl, rfl, rfl⟩ := micros_eq_gateTest hbs hms
    rw [he] at hpost hdraws
    obtain ⟨w, hw, rfl, henvw, hlen⟩ := passes_to_busy_poll hv henv hpost hdraws
    have hpoll : pollCycle w x v.st = pollCycle s x v.st := by rw [pollCycle, hw.config.1, hw.busCfg]; rfl
    refine ⟨micros bs₂, w, hw.trace_prefix, ?_, ?_⟩
    · rw [micros_append, drain_passes hw, ← hpoll]
      exact drain_gate_busy henvw hbusy _
    · rw [micros_append, drain_passes (hw.other_rest henv hlen post)]
      rfl
  · exact absurd (by rw [he]) hc

/-- Settles O13: the run before the poll takes the same answers with and without it, and the poll itself leaves nothing that the next
poll does not overwrite. -/
theorem busyPollAdds : Obligations.BusyPollAdds := by
  intro s t u pre post x st hs henv h hc hpost hdraws h'
  obtain ⟨i, bs, q, l, r, hbs, hstep⟩ := step_waits hs h hc
  obtain rfl := Host.Outcome.next.inj (h.symm.trans (hstep s.env))
  obtain rfl := Host.Outcome.next.inj (h'.symm.trans (hstep (.line (pre ++ post))))
  obtain ⟨ms, w, ⟨before, hbefore⟩, ht, hu⟩ :=
    drain_without_poll (s := { s with requests := q, latch := l, result := r }) (fun hm => gateTest_notMem_blocksOf _ _ i (hbs.subset hm))
      henv hc hpost hdraws
  obtain ⟨after, hafter, hgate⟩ := drain_gate_overwrites ms { w with env := .line post }
  refine ⟨before, after, ?_, ?_, ?_⟩
  · refine (congrArg State.trace ht).trans ?_
    rw [← hbefore]
    rfl
  · refine (congrArg State.trace hu).trans (hafter.trans ?_)
    rw [← hbefore]
  · refine (congrArg step ht).trans ((step_running rfl).trans (congrArg _ ((hgate ..).trans ?_)))
    rw [← hu]
    exact congrArg (fun u : State => { drain _ _ with trace := u.trace ++ after }) ht.symm

end Sys2Proof.Machine
end

section
/-! PROOFS. What an operation may write (10_state.md R29, the lists "state written" of files 40 to 44): the registers each of its blocks
writes, and where a streaming read stores. -/

namespace Sys2Proof.Machine

/-! ## Registers -/

/-- What operations write: the registers that the rules name together, and bytes of the host's memory. -/
inductive Reg where
  | uid | planner | samples | allFF | idr | csOut | addr | st
  /-- A byte of the host's memory. -/
  | mem (x : Nat)
  deriving DecidableEq

/-- A register has the same value in two states. -/
def Reg.kept (s t : State) : Reg → Prop
  | .uid => (t.uid, t.uidValid) = (s.uid, s.uidValid)
  | .planner => (t.rem, t.off, t.cap, t.n) = (s.rem, s.off, s.cap, s.n)
  | .samples => (t.first, t.cnt) = (s.first, s.cnt)
  | .allFF => t.allFF = s.allFF
  | .idr => t.idr = s.idr
  | .csOut => t.csOut = s.csOut
  | .addr => t.a = s.a
  | .st => t.st = s.st
  | .mem x => Memory.wf s.hostMem → Memory.wf t.hostMem ∧ Memory.read t.hostMem x = Memory.read s.hostMem x

theorem Reg.kept_refl (r : Reg) (s : State) : r.kept s s := by
  cases r
  case mem x => exact fun hwf => ⟨hwf, rfl⟩
  all_goals rfl

theorem Reg.kept_trans {r : Reg} {s t u : State} (h : r.kept s t) (h' : r.kept t u) : r.kept s u := by
  cases r
  case mem x => exact fun hwf => ⟨(h' (h hwf).1).1, (h' (h hwf).1).2.trans (h hwf).2⟩
  all_goals exact h'.trans h

/-- The register a received byte goes to. -/
def Keep.writes : Keep → List Reg
  | .st => [.st]
  | .uid _ => [.uid]
  | .allFF => [.allFF]
  | .buf ref k => [.mem (ref + k)]
  | .drop | .v | .hi | .lo => []

/-- The registers a micro-operation writes. -/
def Micro.writes : Micro → List Reg
  | .pinOut => [.csOut]
  | .xfer _ keep => keep.writes
  | .setA _ => [.addr]
  | .setAllFF => [.allFF]
  | .planStart _ | .takeChunk => [.planner]
  | .advance => [.addr, .planner]
  | .setIdr => [.idr]
  | .setUidValid => [.uid]
  | .setCnt _ | .judge => [.samples]
  | .busStart | .busStop | .begin | .finish | .csLow | .csHigh | .gateTest | .checkId | .ret _ => []

/-- The registers a block writes. -/
def Block.writes : Block → List Reg
  | .gate => [.st]
  | .cycle _ body => body.flatMap (·.2.writes)
  | .line m => m.writes

/-- The registers an instruction writes (10_state.md R29). -/
def regsOf : Instr → List Reg
  | .arrayRead _ n => .addr :: .st :: (List.range n).map fun k => .mem (commandBuf + k)
  | .readBytes _ span => .addr :: .st :: (List.range span.len).map fun k => .mem (span.buf + k)
  | .arrayReadLF _ | .readByte _ | .pageProgram _ _ | .writeByte _ _ | .blockErase4KCmd _
  | .eraseBlock4K _ | .blockErase32KCmd _ | .eraseBlock32K _ | .blockErase64KCmd _ | .eraseBlock64K _ => [.addr, .st]
  | .regionIsEmpty _ _ => [.addr, .st, .allFF]
  | .writeBytes _ _ => [.addr, .st, .planner]
  | .chipEraseCmd | .eraseChip | .statusRead | .isBusy | .readStatusRegister | .statusWrite _ | .writeEnable | .sleepCmd | .sleep => [.st]
  | .idRead | .readDeviceId => [.st, .idr]
  | .uidRead | .readUniqueId => [.st, .uid]
  | .initDevice => [.st, .idr, .csOut]
  | .found => [.st, .idr, .samples]
  | .wakeCmd | .wakeup | .endSession => []

/-- Every register but those listed is the same, and so is the host's memory. -/
theorem Reg.kept_of {s t : State} (written : List Reg) (hmem : t.hostMem = s.hostMem)
    (h : ∀ r : Reg, r ∉ written → (∀ x, r ≠ .mem x) → r.kept s t) {r : Reg} (hr : r ∉ written) : r.kept s t := by
  by_cases hx : ∃ x, r = .mem x
  · obtain ⟨x, rfl⟩ := hx
    exact fun hwf => ⟨by rwa [hmem], by rw [hmem]⟩
  · exact h r hr (by simpa using hx)

theorem Keep.store_kept {k : Keep} {r : Reg} (h : r ∉ k.writes) (b : Byte) (s : State) : r.kept s (k.store b s) := by
  cases k
  case buf ref k =>
    cases r
    case mem x =>
      have hx : x ≠ ref + k := fun hx => h (by simp [Keep.writes, hx])
      exact fun hwf => ⟨Memory.write_wf hwf _ _, Memory.read_write_other hwf b hx⟩
    all_goals rfl
  all_goals
    refine Reg.kept_of _ (by rfl) (fun r hr hmem => ?_) h
    cases r <;> first | rfl | simp [Keep.writes] at hr hmem

theorem Micro.perform_kept {m : Micro} {r : Reg} (h : r ∉ m.writes) (s : State) : r.kept s (perform m s).1 := by
  cases m
  case xfer o k =>
    have hexchange : r.kept s (s.exchange (o.eval s)).2 :=
      Reg.kept_of [] (by rfl) (fun r _ hmem => by cases r <;> first | rfl | simp at hmem) List.not_mem_nil
    exact Reg.kept_trans hexchange (Keep.store_kept h _ _)
  case checkId | judge =>
    simp only [perform]
    split <;> refine Reg.kept_of _ (by rfl) (fun r hr hmem => ?_) h <;> cases r <;> first | rfl | simp [Micro.writes] at hr hmem
  all_goals
    refine Reg.kept_of _ (by rfl) (fun r hr hmem => ?_) h
    cases r <;> first | rfl | simp [Micro.writes] at hr hmem

theorem Block.writes_of_mem {b : Block} {m : Micro} (hm : m ∈ b.micros) {r : Reg} (hr : r ∈ m.writes) : r ∈ b.writes := by
  cases b with
  | gate =>
    have hgate : Machine.gate.all fun m => m.writes.all ([Reg.st].contains ·) := rfl
    have hst := List.all_eq_true.mp (List.all_eq_true.mp hgate m hm) r hr
    simpa [Block.writes] using hst
  | cycle w body =>
    simp only [Block.micros, select, deselect, transfers, List.mem_append, List.mem_cons, List.mem_map, List.not_mem_nil,
      or_false] at hm
    rcases hm with ((rfl | rfl) | rfl | ⟨t, ht, rfl⟩) | rfl | rfl <;> first | cases hr | exact List.mem_flatMap.mpr ⟨t, ht, hr⟩
  | line m' =>
    obtain rfl := List.mem_singleton.mp hm
    exact hr

/-- The block writes only registers of a list. -/
def Block.within (rs : List Reg) (b : Block) : Bool := b.writes.all (rs.contains ·)

theorem Block.within_line (rs : List Reg) (m : Micro) : (Block.line m).within rs = m.writes.all (rs.contains ·) := rfl

theorem Block.within_cycle (rs : List Reg) (w : Wire) (body : List (Out × Keep)) :
    (Block.cycle w body).within rs = body.all fun t => t.2.writes.all (rs.contains ·) :=
  List.all_flatMap

/-- Every block of an instruction writes only registers that the instruction may write. -/
theorem blocksOf_within (p : Params) (e : Ident) (i : Instr) : (blocksOf p e i).all (Block.within (regsOf i)) = true := by
  by_cases hst : .st ∈ regsOf i
  · have hgate : Block.within (regsOf i) .gate = true := by simpa [Block.within, Block.writes] using hst
    have hplain := all_plainBlocks hgate p
    have hwrite := all_writeBlocks hgate p
    cases i
    case wakeCmd | wakeup | endSession => cases hst
    all_goals
      simp only [blocksOf, bodyBlocks, readBlocks, idBlocks, uidBlocks, programBlocks, chunkBlocks, statusWriteBlocks, sampleBlocks,
        List.all_append, List.all_cons, List.all_nil, List.all_flatMap, hplain, hwrite, Block.within_line, Block.within_cycle]
    case' initDevice =>
      rw [apply_ite (List.all · _)]
      simp only [List.all_append, List.all_cons, List.all_nil, hplain, Block.within_line, Block.within_cycle]
    all_goals simp [regsOf, Micro.writes, Keep.writes, readBody, addrBody, keepInBuf, uidBody]
  · cases i
    case wakeCmd | wakeup => rw [blocksOf, bodyBlocks, plainBlocks_wake]; rfl
    case endSession => rfl
    all_goals exact absurd (by simp [regsOf]) hst

theorem mem_writes_regsOf {p : Params} {e : Ident} {i : Instr} {m : Micro} (hm : m ∈ micros (blocksOf p e i)) {r : Reg}
    (hr : r ∈ m.writes) : r ∈ regsOf i := by
  obtain ⟨b, hb, hmb⟩ := List.mem_flatMap.mp hm
  have hwithin := List.all_eq_true.mp (blocksOf_within p e i) b hb
  simpa using List.all_eq_true.mp hwithin r (Block.writes_of_mem hmb hr)

/-- A run keeps what its instruction's micro-operations keep. -/
theorem Runs.keeps {P : State → Prop} {i : Instr} {s t : State} (h : Runs i s t)
    (hm : ∀ m ∈ micros (blocksOf s.params s.expectedId i), ∀ u, P u → P (perform m u).1)
    (hc : ∀ u c l q r, P u → P { u with control := c, latch := l, requests := q, result := r }) (hs : P s) : P t := by
  obtain ⟨bs, q, l, r, hbs, rfl⟩ := h
  have hmicros : micros bs ⊆ micros (blocksOf s.params s.expectedId i) := fun m hm => by
    obtain ⟨b, hb, hmb⟩ := List.mem_flatMap.mp hm
    exact List.mem_flatMap.mpr ⟨b, hbs.subset hb, hmb⟩
  exact drain_keeps (fun m h => hm m (hmicros h)) (fun u c l hu => hc u c l u.requests u.result hu)
    (hc s s.control l q r hs)

theorem Runs.kept {i : Instr} {s t : State} (h : Runs i s t) {r : Reg} (hr : r ∉ regsOf i) : r.kept s t := by
  refine h.keeps (P := r.kept s) (fun m hm u hu => ?_) (fun u c l q r' hu => by cases r <;> exact hu) (Reg.kept_refl r s)
  exact Reg.kept_trans hu (Micro.perform_kept (fun hw => hr (mem_writes_regsOf hm hw)) u)

theorem Runs.registersKept {i : Instr} {s t : State} (h : Runs i s t) : RegistersKept i s t where
  planner hi := by simpa [Reg.kept] using h.kept (r := .planner) (by cases i <;> simp_all [regsOf])
  samples hi := by simpa [Reg.kept] using h.kept (r := .samples) (by cases i <;> simp_all [regsOf])
  allFF hi := h.kept (r := .allFF) (by cases i <;> simp_all [regsOf])
  idr hi := h.kept (r := .idr) (by cases i <;> simp_all [regsOf])
  csOut hi := h.kept (r := .csOut) (by cases i <;> simp_all [regsOf])
  addr hi := h.kept (r := .addr) (by cases i <;> simp_all [regsOf])
  stEnd hi := h.kept (r := .st) (by simp [hi, regsOf])
  stWake hi := h.kept (r := .st) (by cases i <;> simp_all [regsOf])

/-- Settles O53: no block of an instruction writes a register that the instruction may not. -/
theorem registerWriters : Obligations.RegisterWriters :=
  ⟨fun _ _ _ h => (exec_runs h).registersKept, fun _ _ _ hs hi h => (step_runs hs hi h).registersKept⟩

/-! ## The host's memory -/

/-- The bytes of the host's memory that an instruction writes are those it may store in. -/
theorem mem_regsOf {x : Nat} {i : Instr} : .mem x ∈ regsOf i ↔ storesAt x i := by
  cases i
  case arrayRead a n =>
    simp only [regsOf, storesAt, List.mem_cons, List.mem_map, List.mem_range, reduceCtorEq, false_or, Reg.mem.injEq]
    exact ⟨fun ⟨k, hk, hx⟩ => hx ▸ ⟨Nat.le_add_right _ _, Nat.add_lt_add_left hk _⟩,
      fun ⟨hle, hlt⟩ => ⟨x - commandBuf, Nat.sub_lt_left_of_lt_add hle hlt, Nat.add_sub_cancel' hle⟩⟩
  case readBytes a span =>
    simp only [regsOf, storesAt, List.mem_cons, List.mem_map, List.mem_range, reduceCtorEq, false_or, Reg.mem.injEq]
    exact ⟨fun ⟨k, hk, hx⟩ => hx ▸ ⟨Nat.le_add_right _ _, Nat.add_lt_add_left hk _⟩,
      fun ⟨hle, hlt⟩ => ⟨x - span.buf, Nat.sub_lt_left_of_lt_add hle hlt, Nat.add_sub_cancel' hle⟩⟩
  all_goals simp [regsOf, storesAt]

/-- Only a transfer that keeps its byte in a buffer writes the host's memory. -/
theorem perform_hostMem (m : Micro) (s : State) :
    (perform m s).1.hostMem = s.hostMem ∨ ∃ o buf k, m = .xfer o (.buf buf k) := by
  cases m
  case xfer o keep => cases keep <;> first | exact .inl rfl | exact .inr ⟨_, _, _, rfl⟩
  case checkId | judge => simp only [perform]; split <;> exact .inl rfl
  all_goals exact .inl rfl

theorem Runs.uidAndBufferKept {i : Instr} {s t : State} (h : Runs i s t) : UidAndBufferKept i s t where
  uid hi hi' := by simpa [Reg.kept] using h.kept (r := .uid) (by cases i <;> simp_all [regsOf])
  hostMem hi := by
    refine h.keeps (P := fun u => u.hostMem = s.hostMem) (fun m hm u hu => ?_) (fun _ _ _ _ _ hu => hu) rfl
    obtain he | ⟨o, buf, k, rfl⟩ := perform_hostMem m u
    · exact he.trans hu
    · exact absurd (mem_regsOf.mp (mem_writes_regsOf hm (List.mem_singleton.mpr rfl))) (hi (buf + k))
  elsewhere hwf x hx := (h.kept (r := .mem x) (fun hr => hx (mem_regsOf.mp hr)) hwf).2

/-- Settles O52: no block stores outside the instruction's own buffer or, but for the unique-identifier read, in `UID`. -/
theorem uidAndBufferWriters : Obligations.UidAndBufferWriters :=
  ⟨fun _ _ _ h => (exec_runs h).uidAndBufferKept, fun _ _ _ hs hi h => (step_runs hs hi h).uidAndBufferKept⟩

/-- Bytes stored one after another: the first is at the buffer's index 0, those after it in the buffer that begins one byte on. -/
theorem Memory.read_fill {m : Memory} (hm : Memory.wf m) (buf : BufRef) (bytes : List Byte) :
    (∀ i, Memory.read (Memory.fill m buf bytes) (buf + i) = bytes.getD i (Memory.read m (buf + i))) ∧
      ∀ x, x < buf → Memory.read (Memory.fill m buf bytes) x = Memory.read m x := by
  induction bytes generalizing m buf with
  | nil => exact ⟨fun _ => rfl, fun _ _ => rfl⟩
  | cons b bytes ih =>
    obtain ⟨hafter, hbefore⟩ := ih (Memory.write_wf hm buf b) (buf + 1)
    constructor
    · rintro (_ | i)
      · exact (hbefore buf (Nat.lt_succ_self buf)).trans (Memory.read_write_same hm buf b)
      · rw [← Nat.add_assoc, Nat.add_right_comm]
        refine (hafter i).trans ?_
        rw [Memory.read_write_other hm b (Nat.ne_of_gt (by rw [Nat.add_assoc]; exact Nat.lt_add_of_pos_right (by omega)))]
        rfl
    · intro x hx
      exact (hbefore x (Nat.lt_succ_of_lt hx)).trans (Memory.read_write_other hm b (Nat.ne_of_lt hx))

/-- Settles O22, by induction on the bytes stored. -/
theorem bufferFilled : Obligations.BufferFilled := fun _ buf bytes hm => Memory.read_fill hm buf bytes

end Sys2Proof.Machine
end

section
/-! PROOFS. Composite operations have the bus traces of what they are composed of (30_encoding.md R124): two runs that differ only in what
the bus does not see go in lockstep, in any environment. -/

namespace Sys2Proof.Machine

/-! ## Lockstep -/

/-- Two micro-operations keep a relation and go on alike. -/
def InStep (R : State → State → Prop) (m m' : Micro) : Prop :=
  ∀ s t, R s t → (perform m s).2 = (perform m' t).2 ∧ R (perform m s).1 (perform m' t).1

/-- Runs whose micro-operations go in step end alike. -/
theorem drain_lockstep {R Q : State → State → Prop} {ms ms' : List Micro} (h : List.Forall₂ (InStep R) ms ms')
    (hQ : ∀ s t c c', R s t → Q { s with control := c } { t with control := c' }) {rest rest' : List Micro}
    (hrest : ∀ s t, R s t → Q (drain rest s) (drain rest' t)) {s t : State} (hs : R s t) :
    Q (drain (ms ++ rest) s) (drain (ms' ++ rest') t) := by
  induction h generalizing s t with
  | nil => exact hrest s t hs
  | @cons m m' ms ms' hm _ ih =>
    obtain ⟨hflow, hnext⟩ := hm s t hs
    rcases hp : perform m s with ⟨s', f⟩
    rcases hp' : perform m' t with ⟨t', f'⟩
    simp only [hp, hp'] at hflow hnext
    subst hflow
    rw [List.cons_append, List.cons_append]
    cases f with
    | go => rw [drain_go hp, drain_go hp']; exact ih hnext
    | again => rw [drain_again hp, drain_again hp']; exact hQ _ _ _ _ hnext
    | halt => rw [drain_halt hp, drain_halt hp']; exact hQ _ _ _ _ hnext

/-! ## What the bus sees -/

/-- What decides the next event on the bus, besides the buffers; and what has happened there. -/
def State.busView (s : State) : Params × BusCfg × Addr × Byte × Env × Nat × List Event :=
  (s.params, s.busCfg, s.a, s.st, s.env, s.draws, s.trace)

/-- The micro-operation belongs to a gate or a command cycle, and sends nothing from a buffer. -/
def Micro.onBus : Micro → Bool
  | .begin | .finish | .csLow | .csHigh | .gateTest => true
  | .xfer out keep => out.fixed && (keep == .drop || keep == .st)
  | _ => false

/-- Two states that the bus cannot tell apart. -/
def SameBus (s t : State) : Prop := s.busView = t.busView

theorem SameBus.exchange {s t : State} (h : SameBus s t) (b : Byte) :
    (s.exchange b).1 = (t.exchange b).1 ∧ SameBus (s.exchange b).2 (t.exchange b).2 := by
  simp only [SameBus, State.busView, Prod.mk.injEq] at h ⊢
  obtain ⟨hparams, hcfg, ha, hst, henv, hdraws, htrace⟩ := h
  simp [hparams, hcfg, ha, hst, henv, hdraws, htrace]

theorem SameBus.eval {s t : State} (h : SameBus s t) {o : Out} (ho : o.fixed = true) : o.eval s = o.eval t := by
  simp only [SameBus, State.busView, Prod.mk.injEq] at h
  obtain ⟨hparams, -, ha, -⟩ := h
  cases o
  case buf => cases ho
  all_goals simp [Out.eval, hparams, ha]

/-- What is stored elsewhere than in `ST` the bus does not see. -/
theorem SameBus.store_left {k : Keep} (hk : k ≠ .st) (b : Byte) (s : State) : SameBus (k.store b s) s := by
  cases k
  case st => exact absurd rfl hk
  all_goals rfl

theorem SameBus.store_st {s t : State} (h : SameBus s t) (b : Byte) : SameBus (Keep.st.store b s) (Keep.st.store b t) := by
  simp only [SameBus, State.busView, Prod.mk.injEq] at h
  obtain ⟨hparams, hcfg, ha, -, henv, hdraws, htrace⟩ := h
  simp [SameBus, State.busView, Keep.store, hparams, hcfg, ha, henv, hdraws, htrace]

theorem SameBus.store {s t : State} (h : SameBus s t) {k k' : Keep} (hk : k = k' ∨ k ≠ .st ∧ k' ≠ .st) (b : Byte) :
    SameBus (k.store b s) (k'.store b t) := by
  by_cases hst : k = .st
  · obtain rfl : k = k' := hk.elim id fun hk => absurd hst hk.1
    exact hst ▸ h.store_st b
  · have hst' : k' ≠ .st := hk.elim (fun hk => hk ▸ hst) (·.2)
    exact (SameBus.store_left hst b s).trans (h.trans (SameBus.store_left hst' b t).symm)

theorem SameBus.xfer {s t : State} (h : SameBus s t) {o o' : Out} (ho : o.eval s = o'.eval t) {k k' : Keep}
    (hk : k = k' ∨ k ≠ .st ∧ k' ≠ .st) : SameBus (perform (.xfer o k) s).1 (perform (.xfer o' k') t).1 := by
  obtain ⟨hreply, hnext⟩ := h.exchange (o.eval s)
  simp only [perform, ← ho, ← hreply]
  exact hnext.store hk _

theorem inStep_onBus {m : Micro} (hm : m.onBus = true) : InStep SameBus m m := by
  intro s t h
  cases m
  case xfer o k =>
    obtain ⟨ho, -⟩ := Bool.and_eq_true_iff.mp hm
    exact ⟨rfl, h.xfer (h.eval ho) (.inl rfl)⟩
  case begin | finish | csLow | csHigh | gateTest =>
    simp only [SameBus, State.busView, Prod.mk.injEq] at h
    obtain ⟨hparams, hcfg, ha, hst, henv, hdraws, htrace⟩ := h
    simp [perform, SameBus, State.busView, State.driveLow, State.driveHigh, State.emit, hparams, hcfg, ha, hst, henv, hdraws, htrace]
  all_goals cases hm

theorem forall₂_onBus {ms : List Micro} (h : ms.all Micro.onBus = true) : List.Forall₂ (InStep SameBus) ms ms :=
  List.forall₂_same.mpr fun m hm => inStep_onBus (List.all_eq_true.mp h m hm)

/-! ## regionIsEmpty and readBytes -/

/-- Streams of the same length go in step, wherever they are kept. -/
theorem forall₂_stream {ks ks' : List Keep} (hlen : ks.length = ks'.length) (hk : .st ∉ ks) (hk' : .st ∉ ks') :
    List.Forall₂ (InStep SameBus) (ks.map (.xfer .fill ·)) (ks'.map (.xfer .fill ·)) := by
  rw [List.forall₂_map_left_iff, List.forall₂_map_right_iff, List.forall₂_iff_zip]
  refine ⟨hlen, fun {k k'} h s t hst => ⟨rfl, hst.xfer (hst.eval rfl) (.inr ⟨?_, ?_⟩)⟩⟩
  · exact fun hs => hk (hs ▸ (List.of_mem_zip h).1)
  · exact fun hs => hk' (hs ▸ (List.of_mem_zip h).2)

/-- Streaming reads of the same length. -/
theorem forall₂_readCycle {p : Params} (hp : p.opcodes.distinct) {ks ks' : List Keep} (hlen : ks.length = ks'.length) (hk : .st ∉ ks)
    (hk' : .st ∉ ks') : List.Forall₂ (InStep SameBus) (readCycle p ks) (readCycle p ks') := by
  rw [readCycle, readCycle, dispatchPlain_gated hp (by decide)]
  exact List.rel_append (List.rel_append (forall₂_onBus rfl) (forall₂_stream hlen hk hk')) (forall₂_onBus rfl)

/-- The trace, the environment and `ST` after two runs are the same. -/
structure EndsAlike (s t : State) : Prop where
  trace : s.trace = t.trace
  env : s.env = t.env
  st : s.st = t.st

theorem SameBus.endsAlike {s t : State} (h : SameBus s t) : EndsAlike s t := by
  simp only [SameBus, State.busView, Prod.mk.injEq] at h
  obtain ⟨-, -, -, hst, henv, -, htrace⟩ := h
  exact ⟨htrace, henv, hst⟩

theorem keepInBuf_ne_st (span : Span) : .st ∉ keepInBuf span := by simp [keepInBuf]

/-- The erased-byte test and the streaming read go in step. -/
theorem exec_regionIsEmpty_readBytes {s t u : State} (hs : s.Ready) {addr : Addr} {buf : BufRef} {len : Byte}
    (ht : exec (.regionIsEmpty addr len) s = .next t) (hu : exec (.readBytes addr ⟨buf, len.toNat⟩) s = .next u) : EndsAlike t u := by
  obtain ⟨-, -, rfl⟩ := exec_next ht
  obtain ⟨-, -, rfl⟩ := exec_next hu
  simp only [programOf, progRegionIsEmpty, progReadBytes, List.cons_append, drain_setA, drain_setAllFF]
  refine drain_lockstep (R := SameBus) (Q := EndsAlike)
    (forall₂_readCycle hs.distinct (ks := List.replicate len.toNat .allFF) (ks' := keepInBuf ⟨buf, len.toNat⟩) (by simp [keepInBuf])
      (by simp [List.mem_replicate]) (keepInBuf_ne_st _))
    (rest := [.ret .allFF]) (rest' := [.ret (.buffer len.toNat)])
    (fun _ _ _ _ h => ⟨h.endsAlike.trace, h.endsAlike.env, h.endsAlike.st⟩)
    (fun _ _ h => ⟨h.endsAlike.trace, h.endsAlike.env, h.endsAlike.st⟩) rfl

/-! ## writeBytes of one byte and writeByte -/

/-- The bus cannot tell the states apart, and the first writes from the buffers of `m` at offset 0. -/
structure WritesFrom (m : Memory) (s t : State) : Prop where
  bus : SameBus s t
  result : s.result = t.result
  off : s.off = 0
  hostMem : s.hostMem = m

theorem perform_onBus_keeps {m : Micro} (hm : m.onBus = true) (s : State) :
    (perform m s).1.result = s.result ∧ (perform m s).1.off = s.off ∧ (perform m s).1.hostMem = s.hostMem := by
  cases m
  case xfer o k =>
    obtain rfl | rfl : k = .drop ∨ k = .st := by simpa [Micro.onBus] using (Bool.and_eq_true_iff.mp hm).2
    all_goals exact ⟨rfl, rfl, rfl⟩
  case begin | finish | csLow | csHigh | gateTest => exact ⟨rfl, rfl, rfl⟩
  all_goals cases hm

theorem forall₂_writesFrom (h : Memory) {ms : List Micro} (hms : ms.all Micro.onBus = true) :
    List.Forall₂ (InStep (WritesFrom h)) ms ms := by
  refine List.forall₂_same.mpr fun m hm s t hst => ?_
  have hon := List.all_eq_true.mp hms m hm
  obtain ⟨hflow, hbus⟩ := inStep_onBus hon s t hst.bus
  obtain ⟨hresult, hoff, hmem⟩ := perform_onBus_keeps hon s
  exact ⟨hflow, hbus, by rw [hresult, (perform_onBus_keeps hon t).1, hst.result], hoff.trans hst.off, hmem.trans hst.hostMem⟩

theorem inStep_bufByte (h : Memory) (buf : BufRef) :
    InStep (WritesFrom h) (.xfer (.buf buf 0) .drop) (.xfer (.byte (Memory.read h buf)) .drop) := by
  intro s t hst
  have heval : (Out.buf buf 0).eval s = Memory.read h buf := by simp [Out.eval, hst.off, hst.hostMem]
  exact ⟨rfl, hst.bus.xfer heval (.inl rfl), hst.result, hst.off, hst.hostMem⟩

/-- A page program of one byte of a buffer, and of that byte. -/
theorem forall₂_programCycle {p : Params} (hp : p.opcodes.distinct) (h : Memory) (buf : BufRef) :
    List.Forall₂ (InStep (WritesFrom h)) (programCycle p [.buf buf 0]) (programCycle p [.byte (Memory.read h buf)]) := by
  rw [programCycle, programCycle, dispatchWrite, dispatchPlain_gated hp (by decide), dispatchPlain_gated hp (by decide)]
  exact List.rel_append (List.rel_append (forall₂_writesFrom h rfl) (.cons (inStep_bufByte h buf) .nil)) (forall₂_writesFrom h rfl)

/-- One byte is one chunk. -/
theorem plan_one (addr : Addr) : plan addr 1 = [⟨addr, 0, 1⟩] := by
  have hsize : nextSize addr 1 = 1 := min_eq_left (firstChunk_bounds addr).1
  rw [plan_eq, planFrom_succ 0 addr 0 one_ne_zero, hsize]
  rfl

theorem exec_writeBytes_writeByte {s t u : State} (hs : s.Ready) {addr : Addr} {buf : BufRef}
    (ht : exec (.writeBytes addr ⟨buf, 1⟩) s = .next t) (hu : exec (.writeByte addr (Memory.read s.hostMem buf)) s = .next u) :
    t.trace = u.trace ∧ t.env = u.env ∧ t.result = u.result := by
  obtain ⟨-, -, rfl⟩ := exec_next ht
  obtain ⟨-, -, rfl⟩ := exec_next hu
  have hprogram : programOf s.params s.expectedId (.writeBytes addr ⟨buf, 1⟩) =
      [.setA addr, .planStart 1, .takeChunk] ++ (programCycle s.params [.buf buf 0] ++ [.advance, .ret .done]) := by
    simp [programOf, progWriteBytes, plan_one, chunkTurn, bufPayload]
  rw [hprogram]
  simp only [programOf, progWriteByte, List.cons_append, List.nil_append, drain_setA, drain_planStart, drain_takeChunk]
  refine drain_lockstep (R := WritesFrom s.hostMem) (Q := fun t u => t.trace = u.trace ∧ t.env = u.env ∧ t.result = u.result)
    (forall₂_programCycle hs.distinct s.hostMem buf) (rest := [.advance, .ret .done]) (rest' := [.ret .done])
    (fun _ _ _ _ h => ⟨h.bus.endsAlike.trace, h.bus.endsAlike.env, h.result⟩)
    (fun _ _ h => ⟨h.bus.endsAlike.trace, h.bus.endsAlike.env, rfl⟩) ⟨rfl, rfl, rfl, rfl⟩

/-- Settles O55: the runs go in lockstep. -/
theorem compositeTraces : Obligations.CompositeTraces :=
  ⟨fun _ _ _ _ _ hs ht hu => exec_writeBytes_writeByte hs ht hu, fun _ _ _ _ _ _ hs ht hu =>
    have h := exec_regionIsEmpty_readBytes hs ht hu
    ⟨h.trace, h.env, h.st⟩⟩

end Sys2Proof.Machine
end

section
/-! PROOFS. Command cycles on the reference chip of 95_test_vectors.md section 0, awake and not busy: what it answers, and what
it becomes. -/

namespace Sys2Proof.Machine

/-! ## The chip -/

/-- A reference chip that is awake, in no operation, and takes no time for one; a frame may be under way. -/
structure Chip.Calm (c : Chip) : Prop where
  reference : c.gaps = .reference
  awake : c.asleep = false
  settled : c.waking = 0
  ready : c.busy = 0
  program : c.kProgram = 0
  erase : c.kErase = 0

theorem Chip.Prompt.calm {c : Chip} (h : c.Prompt) : c.Calm := ⟨h.reference, h.awake, h.settled, h.ready, h.program, h.erase⟩

theorem Chip.Calm.prompt {c : Chip} (h : c.Calm) (hf : c.frame = []) : c.Prompt :=
  ⟨h.reference, h.awake, h.settled, h.ready, h.program, h.erase, hf⟩

theorem Chip.Calm.withFrame {c : Chip} (h : c.Calm) (frame : List Byte) : { c with frame := frame }.Calm :=
  ⟨h.reference, h.awake, h.settled, h.ready, h.program, h.erase⟩

theorem Chip.Calm.attends {c : Chip} (h : c.Calm) (o : Opcodes) (opc : Byte) : c.ignores o opc = false ∧ c.disturbed o opc = false := by
  simp [Chip.ignores, Chip.disturbed, h.awake, h.settled, h.ready]

/-- It draws nothing for an answer and stays as it is. -/
theorem Chip.Calm.answer {c : Chip} (h : c.Calm) (w : Option Wire) (draws : Nat) : c.answer w draws = ((c.answer w 0).1, c, draws) := by
  have hgap (d : Nat) (b : Byte) := Chip.gapByte_reference h.reference d b
  have hstatus (d : Nat) : c.statusReply d = ((c.statusReply 0).1, c, d) := by simp [Chip.statusReply, hgap, h.ready]
  have harray (d x : Nat) : c.arrayReply d x = ((c.arrayReply 0 x).1, d) := by simp [Chip.arrayReply, h.reference]
  rcases w with _ | w
  · simp [Chip.answer, hgap]
  · cases w <;> simp only [Chip.answer, hgap, hstatus draws, harray draws] <;> split_ifs <;> rfl

/-- What it answers in a frame of command `w` of which `sofar` has been sent, one byte for each byte still sent. -/
def Chip.answers (c : Chip) (w : Wire) (sofar : List Byte) : List Byte → List Byte
  | [] => []
  | b :: bs => ({ c with frame := sofar }.answer (some w) 0).1 :: c.answers w (sofar ++ [b]) bs

/-- One transfer. -/
theorem Chip.Calm.reply {c : Chip} (h : c.Calm) {o : Opcodes} {sofar : List Byte} {sent : Byte} {w : Wire}
    (hw : o.find? ((sofar ++ [sent]).headD 0) = some w) (draws : Nat) :
    { c with frame := sofar }.reply o draws sent =
      (({ c with frame := sofar }.answer (some w) 0).1, { c with frame := sofar ++ [sent] }, draws) := by
  obtain ⟨hi, hd⟩ := (h.withFrame sofar).attends o ((sofar ++ [sent]).headD 0)
  simp only [Chip.reply, hi, hd, hw, Bool.or_false, Bool.false_eq_true, if_false, (h.withFrame sofar).answer (some w) draws]

/-- A reaction that draws nothing and leaves the chip ready for the next frame. -/
structure Chip.Settles (c : Chip) (draws : Nat) (effect : Chip × Nat) : Prop where
  draws : effect.2 = draws
  calm : effect.1.Calm
  frame : effect.1.frame = c.frame

theorem Chip.Calm.settles {c : Chip} (h : c.Calm) (draws : Nat) : c.Settles draws (c, draws) := ⟨rfl, h, rfl⟩

theorem Chip.Calm.gapEffect {c : Chip} (h : c.Calm) (draws : Nat) : c.Settles draws (c.gapEffect draws) := by
  rw [Chip.gapEffect_reference h.reference]
  exact h.settles draws

/-- A program or erase takes no time. -/
theorem Chip.Calm.start {c : Chip} (h : c.Calm) (draws : Nat) (m : Memory) :
    { c with mem := m }.start draws 0 = ({ c with mem := m, busy := 0, wel := false }, draws) :=
  Chip.start_reference (c := { c with mem := m }) h.reference draws 0

theorem Chip.Calm.armed {c : Chip} (h : c.Calm) (draws : Nat) (m : Memory) :
    c.Settles draws (c.armed draws ({ c with mem := m }.start draws 0)) := by
  unfold Chip.armed
  split
  · simpa [Chip.refuse, h.reference] using h.settles draws
  · split
    · exact h.gapEffect draws
    · rw [h.start]
      exact ⟨rfl, ⟨h.reference, h.awake, h.settled, rfl, h.program, h.erase⟩, rfl⟩

/-- A complete frame other than a sleep command's. -/
theorem Chip.Calm.perform {c : Chip} (h : c.Calm) (draws : Nat) {w : Wire} (hw : w ≠ .sleep) (frame : List Byte) :
    c.Settles draws (c.perform draws (some w) frame) := by
  have hgap := h.gapEffect draws
  have herase (size : Nat) : c.Settles draws (c.eraseBlock draws (frameAddr frame) size) := by
    simpa [Chip.eraseBlock, h.reference, h.erase] using h.armed draws _
  cases w
  case sleep => exact absurd rfl hw
  case arrayReadLF | arrayRead | statusRead | idRead | uidRead => exact h.settles draws
  all_goals
    simp only [Chip.perform]
    split
  case pageProgram.isTrue => simpa [Chip.program, h.reference, h.program] using h.armed draws _
  case blockErase4K.isTrue | blockErase32K.isTrue | blockErase64K.isTrue => exact herase _
  case chipErase.isTrue => simpa [Chip.eraseAll, h.erase] using h.armed draws []
  case statusWrite.isTrue =>
    simp only [Chip.writeStatus, h.reference]
    split
    · exact ⟨rfl, ⟨rfl, h.awake, h.settled, h.ready, h.program, h.erase⟩, rfl⟩
    · exact h.settles draws
  case wake.isTrue =>
    simp only [Chip.powerUp, h.reference]
    exact ⟨rfl, ⟨rfl, rfl, h.settled, h.ready, h.program, h.erase⟩, rfl⟩
  case writeEnable.isTrue => exact ⟨rfl, ⟨h.reference, h.awake, h.settled, h.ready, h.program, h.erase⟩, rfl⟩
  all_goals exact hgap

/-! ## Command cycles -/

/-- The state after a command cycle on a chip: its events in the trace, the bus released, the chip after the frame's effect. -/
def State.onChip (s : State) (events : List Event) (effect : Chip × Nat) : State :=
  { s with busHeld := false, csLevel := .high, trace := s.trace ++ events, env := .chip effect.1, draws := effect.2 }

/-- Storing depends on no bus register and on no trace or environment. -/
theorem storeAll_onChip (ks : List Keep) (rs : List Byte) (s : State) (events : List Event) (effect : Chip × Nat) :
    (storeAll ks rs s).onChip events effect = storeAll ks rs (s.onChip events effect) := by
  induction ks generalizing rs s with
  | nil => rfl
  | cons k ks ih =>
    cases rs with
    | nil => rfl
    | cons r rs => exact (ih rs (k.store r s)).trans (by cases k <;> rfl)

theorem storeAll_constants (ks : List Keep) (rs : List Byte) (s : State) :
    (storeAll ks rs s).params = s.params ∧ (storeAll ks rs s).draws = s.draws := by
  induction ks generalizing rs s with
  | nil => exact ⟨rfl, rfl⟩
  | cons k ks ih =>
    cases rs with
    | nil => exact ⟨rfl, rfl⟩
    | cons r rs =>
      obtain ⟨hparams, hdraws⟩ := ih rs (k.store r s)
      exact ⟨hparams.trans (k.store_params r s), hdraws.trans (k.store_draws r s)⟩

/-- One transfer, in a frame of command `w` under way. -/
theorem exchange_chip {s : State} {c : Chip} (hc : c.Calm) {sofar : List Byte} {sent : Byte} {w : Wire}
    (hw : s.params.opcodes.find? ((sofar ++ [sent]).headD 0) = some w) (henv : s.env = .chip { c with frame := sofar }) :
    s.exchange sent = (({ c with frame := sofar }.answer (some w) 0).1, { s with
      trace := s.trace ++ [.xfer sent ({ c with frame := sofar }.answer (some w) 0).1]
      env := .chip { c with frame := sofar ++ [sent] } }) := by
  simp [State.exchange, State.emit, Env.reply, henv, hc.reply hw]

theorem drain_transfers_chip {body : List (Out × Keep)} (hbody : Steady body) {s : State} {c : Chip} (hc : c.Calm) {opc : Byte} {w : Wire}
    (hw : s.params.opcodes.find? opc = some w) {sofar : List Byte} (henv : s.env = .chip { c with frame := opc :: sofar })
    (ms : List Micro) :
    drain (transfers body ++ ms) s =
      drain ms (storeAll (body.map (·.2)) (c.answers w (opc :: sofar) (bodyBytes s body)) { s with
        trace := s.trace ++ ((bodyBytes s body).zip (c.answers w (opc :: sofar) (bodyBytes s body))).map (fun t => .xfer t.1 t.2)
        env := .chip { c with frame := opc :: sofar ++ bodyBytes s body } }) := by
  induction body generalizing s sofar with
  | nil => simp [transfers, bodyBytes, Chip.answers, storeAll, ← henv]
  | cons t body ih =>
    let r := ({ c with frame := opc :: sofar }.answer (some w) 0).1
    let s' : State := { s with
      trace := s.trace ++ [.xfer (t.1.eval s) r], env := .chip { c with frame := opc :: (sofar ++ [t.1.eval s]) } }
    have hbytes : bodyBytes (t.2.store r s') body = bodyBytes s body := List.map_congr_left fun u hu =>
      (hbody t (by simp) u (List.mem_cons_of_mem _ hu) r s').trans ((SameView.of_view rfl).eval u.1)
    have hstored : (t.2.store r s').trace = s'.trace ∧ (t.2.store r s').env = s'.env ∧ (t.2.store r s').params = s'.params := by
      cases t.2 <;> exact ⟨rfl, rfl, rfl⟩
    have hxfer : drain (.xfer t.1 t.2 :: (transfers body ++ ms)) s = drain (transfers body ++ ms) (t.2.store r s') := by
      rw [drain_xfer, exchange_chip hc hw henv]
      rfl
    refine hxfer.trans ((ih hbody.of_cons (by rw [hstored.2.2]; exact hw) hstored.2.1).trans ?_)
    rw [hbytes, hstored.1]
    simp only [List.map_cons, storeAll, bodyBytes, List.zip_cons_cons, Chip.answers, s']
    congr 2
    cases t.2 <;> simp [Keep.store, r]

/-- The end of a frame: its effect, on the chip between frames. -/
theorem Chip.Prompt.deselect {c : Chip} (h : c.Prompt) (o : Opcodes) (draws : Nat) (opc : Byte) (rest : List Byte) :
    { c with frame := opc :: rest }.deselect o draws = c.perform draws (o.find? opc) (opc :: rest) := by
  obtain ⟨hi, hd⟩ := (h.calm.withFrame (opc :: rest)).attends o opc
  have hc : { c with frame := [] } = c := by rw [← h.between]
  simp only [Chip.deselect, hi, hd, Bool.false_eq_true, if_false, hc]

theorem drain_deselect_chip {s : State} {c : Chip} (hc : c.Prompt) {opc : Byte} {rest : List Byte} {w : Wire}
    (hw : s.params.opcodes.find? opc = some w) (henv : s.env = .chip { c with frame := opc :: rest }) (ms : List Micro) :
    drain (deselect ++ ms) s = drain ms (s.onChip [.cs .high, .finish] (c.perform s.draws (some w) (opc :: rest))) := by
  have hdeselect : s.env.deselect s.params.opcodes s.draws =
      (.chip (c.perform s.draws (some w) (opc :: rest)).1, (c.perform s.draws (some w) (opc :: rest)).2) := by
    rw [henv, Env.deselect, hc.deselect, hw]
  simp [deselect, State.driveHigh, State.emit, State.onChip, hdeselect]

/-- A command cycle between frames: the chip answers each transfer, and the complete frame takes effect. -/
theorem drain_cycle_chip {w : Wire} {body : List (Out × Keep)} (hbody : Steady body) {s : State} (hp : s.params.opcodes.distinct)
    {c : Chip} (hc : c.Prompt) (henv : s.env = .chip c) {frame : List Byte} (hframe : frame = s.params.opcodes.byte w :: bodyBytes s body)
    (ms : List Micro) :
    drain ((Block.cycle w body).micros ++ ms) s =
      drain ms (storeAll (body.map (·.2)) (c.answers w [] frame).tail
        (s.onChip (cycle s.busCfg (frame.zip (c.answers w [] frame))) (c.perform s.draws (some w) frame))) := by
  have hmicros : (Block.cycle w body).micros ++ ms = select ++ .xfer (.opcode w) .drop :: (transfers body ++ (deselect ++ ms)) := by
    simp [Block.micros]
  have hw := Opcodes.find?_byte hp w
  let s₁ : State := { s with trace := s.trace ++ [.begin s.busCfg, .cs .low], busHeld := true, csLevel := .low, env := s.env.select }
  have henv₁ : s₁.env = .chip { c with frame := [] } := by simp [s₁, henv, Env.select, Chip.select]
  let r := ({ c with frame := [] }.answer (some w) 0).1
  let s₂ : State := { s₁ with
    trace := s₁.trace ++ [.xfer (s.params.opcodes.byte w) r], env := .chip { c with frame := [s.params.opcodes.byte w] } }
  have hopcode : drain (.xfer (.opcode w) .drop :: (transfers body ++ (deselect ++ ms))) s₁ =
      drain (transfers body ++ (deselect ++ ms)) s₂ := by
    rw [drain_xfer, exchange_chip (s := s₁) hc.calm (sofar := []) (w := w) (by simpa [Out.eval] using hw) henv₁]
    rfl
  have hbytes : bodyBytes s₂ body = bodyBytes s body := (SameView.of_view rfl).same_bodyBytes body
  subst hframe
  let rs := c.answers w [s.params.opcodes.byte w] (bodyBytes s body)
  let s₃ : State := { s₂ with
    trace := s₂.trace ++ ((bodyBytes s body).zip rs).map (fun t => .xfer t.1 t.2)
    env := .chip { c with frame := s.params.opcodes.byte w :: bodyBytes s body } }
  have htransfers : drain (transfers body ++ (deselect ++ ms)) s₂ = drain (deselect ++ ms) (storeAll (body.map (·.2)) rs s₃) := by
    rw [drain_transfers_chip hbody hc.calm (s := s₂) hw (sofar := []) rfl, hbytes]
    rfl
  obtain ⟨hparams, hdraws⟩ := storeAll_constants (body.map (·.2)) rs s₃
  rw [hmicros, drain_select, hopcode, htransfers, drain_deselect_chip hc (by rw [hparams]; exact hw) (storeAll_env ..), storeAll_onChip,
    hdraws]
  congr 2
  simp [State.onChip, s₃, s₂, s₁, cycle, Chip.answers, r, rs]

end Sys2Proof.Machine
end

section
/-! PROOFS. Operations on a prompt reference chip: every one returns, a read gives the array's byte, a program and an erase change the
bytes they should (20_memory.md R77 to R83). -/

namespace Sys2Proof.Machine

/-! ## Gated commands -/

/-- The gate passes at its first poll, since the chip is not busy. -/
theorem drain_gate_chip {s : State} (hp : s.params.opcodes.distinct) {c : Chip} (hc : c.Prompt) (henv : s.env = .chip c) (ms : List Micro) :
    ∃ st events, drain (Block.gate.micros ++ ms) s = drain ms ({ s with st := st }.onChip events (c, s.draws)) := by
  have hready (frame : List Byte) : busyBit ({ c with frame := frame }.statusReply 0).1 = false :=
    (Chip.statusReply_busyBit { c with frame := frame } 0).trans (by simp [hc.ready])
  have hpoll := drain_cycle_chip (w := .statusRead) (body := [(.fill, .st)]) (Steady.of_fixed (by decide)) hp hc henv rfl (.gateTest :: ms)
  exact ⟨_, _, hpoll.trans (drain_gateTest_ready (hready [s.params.opcodes.statusRead]) ms)⟩

/-- A gated command. -/
theorem drain_plainBlocks_chip {s : State} (hp : s.params.opcodes.distinct) {c : Chip} (hc : c.Prompt) (henv : s.env = .chip c) {w : Wire}
    (hw : w ≠ .wake) {body : List (Out × Keep)} (hbody : Steady body) {frame : List Byte}
    (hframe : frame = s.params.opcodes.byte w :: bodyBytes s body) (ms : List Micro) :
    ∃ st events, drain (micros (plainBlocks s.params w body) ++ ms) s =
      drain ms (storeAll (body.map (·.2)) (c.answers w [] frame).tail
        ({ s with st := st }.onChip events (c.perform s.draws (some w) frame))) := by
  obtain ⟨st, events, hgate⟩ := drain_gate_chip hp hc henv ((Block.cycle w body).micros ++ ms)
  have hbytes : bodyBytes ({ s with st := st }.onChip events (c, s.draws)) body = bodyBytes s body :=
    (SameView.of_view rfl).same_bodyBytes body
  have hcycle := drain_cycle_chip hbody (s := { s with st := st }.onChip events (c, s.draws)) hp hc rfl (hbytes.symm ▸ hframe) ms
  rw [plainBlocks_gated hp hw, micros_cons, micros_cons, micros_nil, List.append_nil, List.append_assoc, hgate, hcycle]
  refine ⟨st, events ++ cycle s.busCfg (frame.zip (c.answers w [] frame)), ?_⟩
  simp only [State.onChip, List.append_assoc]

/-- A write-type command, which discards what it receives, takes effect on the chip with its write-enable latch set (R78). -/
theorem drain_writeBlocks_chip {s : State} (hp : s.params.opcodes.distinct) {c : Chip} (hc : c.Prompt) (henv : s.env = .chip c) {w : Wire}
    (hw : w ≠ .wake) {body : List (Out × Keep)} (hbody : ∀ t ∈ body, t.2 = .drop) {frame : List Byte}
    (hframe : frame = s.params.opcodes.byte w :: bodyBytes s body) (ms : List Micro) :
    ∃ st events, drain (micros (writeBlocks s.params w body) ++ ms) s =
      drain ms ({ s with st := st }.onChip events ({ c with wel := true }.perform s.draws (some w) frame)) := by
  obtain ⟨st₁, events₁, henable⟩ := drain_plainBlocks_chip hp hc henv (w := .writeEnable) (by decide) (body := [])
    (Steady.of_drop (by simp)) rfl (micros (plainBlocks s.params w body) ++ ms)
  have hbytes : bodyBytes ({ s with st := st₁ }.onChip events₁ ({ c with wel := true }, s.draws)) body = bodyBytes s body :=
    (SameView.of_view rfl).same_bodyBytes body
  obtain ⟨st, events, hcommand⟩ := drain_plainBlocks_chip
    (s := { s with st := st₁ }.onChip events₁ ({ c with wel := true }, s.draws)) hp (c := { c with wel := true })
    ⟨hc.reference, hc.awake, hc.settled, hc.ready, hc.program, hc.erase, hc.between⟩ rfl hw (Steady.of_drop hbody) (hbytes.symm ▸ hframe) ms
  refine ⟨st, events₁ ++ events, ?_⟩
  rw [writeBlocks, micros_append, List.append_assoc, henable]
  refine hcommand.trans ?_
  rw [storeAll_drops (by simpa using fun k o h => hbody (o, k) h)]
  simp only [State.onChip, List.append_assoc]

/-! ## Reading, programming, erasing -/

section
variable {s : State} (hs : s.Ready) {c : Chip} (hc : c.Prompt) (henv : s.env = .chip c) {i : Instr} (hi : i ≠ .initDevice) {w : Wire}
  (hw : w ≠ .wake) {a : Addr} {body : List (Out × Keep)} {frame : List Byte}
  (hframe : frame = s.params.opcodes.byte w :: bodyBytes { s with a := a } body)
include hs hc henv hi hw hframe

/-- An operation that is one gated command with an address. -/
theorem exec_addr_plainBlocks_chip (hblocks : bodyBlocks s.params s.expectedId i = .line (.setA a) :: plainBlocks s.params w body)
    (hbody : Steady body) :
    ∃ st events, exec i s = .next (drain [.ret (retOf i)] (storeAll (body.map (·.2)) (c.answers w [] frame).tail
      ({ s.accepted i with a := a, st := st }.onChip events (c.perform s.draws (some w) frame)))) := by
  obtain ⟨st, events, hcommand⟩ := drain_plainBlocks_chip (s := { s.accepted i with a := a }) hs.distinct hc henv hw hbody hframe
    [.ret (retOf i)]
  rw [exec_ready_blocks hs hi, hblocks, drain_setA_blocks]
  exact ⟨st, events, congrArg _ hcommand⟩

/-- An operation that is one write-type command with an address. -/
theorem exec_addr_writeBlocks_chip (hblocks : bodyBlocks s.params s.expectedId i = .line (.setA a) :: writeBlocks s.params w body)
    (hbody : ∀ t ∈ body, t.2 = .drop) :
    ∃ st events, exec i s = .next (drain [.ret (retOf i)]
      ({ s.accepted i with a := a, st := st }.onChip events ({ c with wel := true }.perform s.draws (some w) frame))) := by
  obtain ⟨st, events, hcommand⟩ := drain_writeBlocks_chip (s := { s.accepted i with a := a }) hs.distinct hc henv hw hbody hframe
    [.ret (retOf i)]
  rw [exec_ready_blocks hs hi, hblocks, drain_setA_blocks]
  exact ⟨st, events, congrArg _ hcommand⟩

end

theorem frameAddr_addrBytes (opc : Byte) (a : Addr) (rest : List Byte) : frameAddr (opc :: addrBytes a ++ rest) = a.toNat :=
  congrArg BitVec.toNat (joinAddr_addrBytes a)

/-- The fifth byte of a low-frequency read (R80). -/
theorem Chip.answer_arrayReadLF {c : Chip} (hc : c.gaps = .reference) (opc : Byte) (a : Addr) :
    ({ c with frame := opc :: addrBytes a }.answer (some .arrayReadLF) 0).1 = Memory.read c.mem a.toNat := by
  have haddr : frameAddr (opc :: addrBytes a) = a.toNat := by simpa using frameAddr_addrBytes opc a []
  have hpos : (opc :: addrBytes a).length = 4 := rfl
  have ha : a.toNat % 2 ^ 24 = a.toNat := Nat.mod_eq_of_lt a.isLt
  simp only [Chip.answer, Chip.arrayReply, hc, haddr, hpos, lt_irrefl, if_false, Nat.sub_self, Nat.add_zero, ha]

/-- Settles O57: the chip's answer to the fifth transfer. -/
theorem chipReadByte : Obligations.ChipReadByte := by
  intro s c addr hs henv hc
  obtain ⟨st, events, hexec⟩ := exec_addr_plainBlocks_chip hs hc henv (i := .readByte addr) nofun (w := .arrayReadLF) (by decide)
    (body := addrBody ++ [(.fill, .v)]) (frame := s.params.opcodes.arrayReadLF :: addrBytes addr ++ [s.params.fill]) rfl rfl
    (Steady.of_fixed (by decide))
  exact ⟨_, hexec, rfl, congrArg (fun b => some (Result.byte b)) (Chip.answer_arrayReadLF hc.reference _ addr), rfl⟩

/-- With the latch set and no protection bits, a program or erase takes effect (R78, R88). -/
theorem Chip.armed_unprotected {c : Chip} (hprot : c.prot = 0) (hwel : c.wel = true) (draws : Nat) (effect : Chip × Nat) :
    c.armed draws effect = effect := by
  simp [Chip.armed, hprot, hwel]

/-- A page program of one byte can only clear bits of that byte (R77). -/
theorem Chip.perform_pageProgram {c : Chip} (hc : c.gaps = .reference) (hprot : c.prot = 0) (hwel : c.wel = true) (draws : Nat) (opc : Byte)
    (a : Addr) (d : Byte) :
    (c.perform draws (some .pageProgram) (opc :: addrBytes a ++ [d])).1.mem =
      Memory.write c.mem a.toNat (Memory.read c.mem a.toNat &&& d) := by
  have htarget : programTarget a.toNat 0 = a.toNat := by unfold programTarget; omega
  have hbytes : programBytes a.toNat 0 [d] c.mem = Memory.write c.mem a.toNat (Memory.read c.mem a.toNat &&& d) := by
    simp [programBytes, htarget]
  have hperform : c.perform draws (some .pageProgram) (opc :: addrBytes a ++ [d]) = c.program draws a.toNat [d] :=
    congrArg (c.program draws · [d]) (frameAddr_addrBytes opc a [d])
  rw [hperform, Chip.program, Chip.armed_unprotected hprot hwel, if_neg (by simp [hc]), Chip.start_mem, hbytes]

/-- A block erase at a block's start makes the block blank (R82). -/
theorem Chip.perform_blockErase4K {c : Chip} (hc : c.gaps = .reference) (hprot : c.prot = 0) (hwel : c.wel = true) (draws : Nat)
    (opc : Byte) {a : Addr} (ha : a.toNat % 4096 = 0) :
    (c.perform draws (some .blockErase4K) (opc :: addrBytes a)).1.mem = Memory.eraseRange c.mem a.toNat 4096 := by
  have hstart : a.toNat / 4096 * 4096 = a.toNat := Nat.div_mul_cancel (Nat.dvd_of_mod_eq_zero ha)
  have hperform : c.perform draws (some .blockErase4K) (opc :: addrBytes a) = c.eraseBlock draws a.toNat 4096 :=
    congrArg (c.eraseBlock draws · 4096) (by simpa using frameAddr_addrBytes opc a [])
  rw [hperform, Chip.eraseBlock, Chip.armed_unprotected hprot hwel, if_neg (by simp [hc]), Chip.start_mem, hstart, Chip.besideUnit,
    if_neg (by simp [hc])]

/-- Settles O58: the effect of a page program on an armed chip. -/
theorem chipWriteByte : Obligations.ChipWriteByte := by
  intro s c addr value hs henv hc hprot hwf
  obtain ⟨st, events, hexec⟩ := exec_addr_writeBlocks_chip hs hc henv (i := .writeByte addr value) nofun (w := .pageProgram) (by decide)
    (body := addrBody ++ [(.byte value, .drop)]) (frame := s.params.opcodes.pageProgram :: addrBytes addr ++ [value]) rfl rfl
    (by simp [addrBody])
  have hmem := Chip.perform_pageProgram (c := { c with wel := true }) hc.reference hprot rfl s.draws s.params.opcodes.pageProgram addr value
  refine ⟨_, hexec, rfl, fun x => (congrArg (Memory.read · x) hmem).trans ?_⟩
  rw [Memory.read_write hwf]
  split
  · next hx => rw [hx]
  · rfl

/-- Settles O59: the effect of a block erase on an armed chip. -/
theorem chipEraseBlock4K : Obligations.ChipEraseBlock4K := by
  intro s c addr hs henv hc hprot hwf halign
  obtain ⟨st, events, hexec⟩ := exec_addr_writeBlocks_chip hs hc henv (i := .eraseBlock4K addr) nofun (w := .blockErase4K) (by decide)
    (body := addrBody) (frame := s.params.opcodes.blockErase4K :: addrBytes addr) rfl rfl (by simp [addrBody])
  have hmem := Chip.perform_blockErase4K (c := { c with wel := true }) hc.reference hprot rfl s.draws s.params.opcodes.blockErase4K halign
  exact ⟨_, hexec, rfl, fun x => (congrArg (Memory.read · x) hmem).trans (Memory.read_eraseRange hwf _ _ x)⟩

/-! ## Every operation returns -/

/-- What the transfers send does not depend on what they receive, as a test. -/
def steadyBody (body : List (Out × Keep)) : Bool := body.all (·.2 == .drop) || body.all (·.1.fixed)

theorem Steady.of_test {body : List (Out × Keep)} (h : steadyBody body = true) : Steady body := by
  obtain h | h := Bool.or_eq_true_iff.mp h
  · exact Steady.of_drop (by simpa using h)
  · exact Steady.of_fixed (by simpa using h)

/-- The block is no test of the gate by itself, no lone transfer, and puts no chip to sleep. -/
def Block.awake : Block → Bool
  | .cycle w body => w != .sleep && steadyBody body
  | .line (.xfer _ _) | .line .csLow | .line .gateTest => false
  | _ => true

/-- A block that is a line leaves the chip between frames as it is, and the gate is not there. -/
theorem perform_line_prompt {m : Micro} (hm : (Block.line m).awake = true) {s : State} {c : Chip} (hc : c.Prompt) (henv : s.env = .chip c) :
    (perform m s).1.env = .chip c ∧ (perform m s).1.params = s.params ∧ (perform m s).2 ≠ .again := by
  cases m
  case xfer | csLow | gateTest => cases hm
  case csHigh => simp [perform, henv, Env.deselect, Chip.deselect, hc.between]
  case checkId | judge => simp only [perform]; split <;> exact ⟨henv, rfl, nofun⟩
  all_goals exact ⟨henv, rfl, nofun⟩

/-- Nothing on the way of such blocks waits. -/
theorem drain_awake {bs : List Block} (hbs : bs.all Block.awake = true) {s : State} (hp : s.params.opcodes.distinct) {c : Chip}
    (hc : c.Prompt) (henv : s.env = .chip c) : (drain (micros bs) s).control = [] := by
  induction bs generalizing s c with
  | nil => rfl
  | cons b bs ih =>
    obtain ⟨hb, hrest⟩ := Bool.and_eq_true_iff.mp hbs
    rw [micros_cons]
    cases b with
    | gate =>
      obtain ⟨st, events, hgate⟩ := drain_gate_chip hp hc henv (micros bs)
      rw [hgate]
      exact ih hrest hp hc rfl
    | cycle w body =>
      obtain ⟨hw, hbody⟩ := Bool.and_eq_true_iff.mp hb
      have heffect := hc.calm.perform s.draws (w := w) (by simpa using hw) (s.params.opcodes.byte w :: bodyBytes s body)
      rw [drain_cycle_chip (Steady.of_test hbody) hp hc henv rfl]
      refine ih hrest ?_ (heffect.calm.prompt (heffect.frame.trans hc.between)) (storeAll_env ..)
      rw [(storeAll_constants ..).1]
      exact hp
    | line m =>
      obtain ⟨henv', hparams, hflow⟩ := perform_line_prompt hb hc henv
      show (drain (m :: micros bs) s).control = []
      rcases hm : perform m s with ⟨s', f⟩
      rw [hm] at henv' hparams hflow
      cases f with
      | go =>
        rw [drain_go hm]
        exact ih hrest (hparams ▸ hp) hc henv'
      | again => exact absurd rfl hflow
      | halt => rw [drain_halt hm]

/-- Only the sleep command puts the chip to sleep. -/
theorem blocksOf_awake (p : Params) (e : Ident) {i : Instr} (hi : i ≠ .sleep) (hi' : i ≠ .sleepCmd) :
    (blocksOf p e i).all Block.awake = true := by
  have hplain := all_plainBlocks (f := Block.awake) rfl p
  have hwrite := all_writeBlocks (f := Block.awake) rfl p
  cases i
  case sleep | sleepCmd => simp at hi hi'
  all_goals
    simp only [blocksOf, bodyBlocks, readBlocks, idBlocks, uidBlocks, programBlocks, chunkBlocks, statusWriteBlocks, sampleBlocks,
      List.all_append, List.all_cons, List.all_nil, List.all_flatMap, hplain, hwrite, apply_ite (List.all · Block.awake)]
  all_goals simp [Block.awake, steadyBody, readBody, addrBody, uidBody, Out.fixed]

/-- No operation waits: the gate before a sleep passes too, and nothing after it polls. -/
theorem drain_blocksOf_prompt {s : State} (hp : s.params.opcodes.distinct) {c : Chip} (hc : c.Prompt) (henv : s.env = .chip c) (e : Ident)
    (i : Instr) : (drain (micros (blocksOf s.params e i)) s).control = [] := by
  by_cases hi : i = .sleep ∨ i = .sleepCmd
  · obtain ⟨st, events, hsleep⟩ := drain_plainBlocks_chip hp hc henv (w := .sleep) (by decide) (body := [])
      (Steady.of_drop (by simp)) rfl [.ret .done]
    have hblocks : micros (blocksOf s.params e i) = micros (plainBlocks s.params .sleep []) ++ [.ret .done] := by
      rw [blocksOf, micros_append]
      rcases hi with rfl | rfl <;> rfl
    rw [hblocks, hsleep]
    rfl
  · obtain ⟨hi, hi'⟩ := not_or.mp hi
    exact drain_awake (blocksOf_awake s.params e hi hi') hp hc henv

/-- Settles O56: it returns or waits, and on a prompt chip nothing waits. -/
theorem promptReturns : Obligations.PromptReturns := by
  intro i s c hidle hp henv hc hsession
  obtain ⟨t, ht, -, ⟨-, hcontrol, -⟩ | ⟨hlatch, hcontrol, hresult⟩⟩ := permittedAccepted i s hidle hsession
  · obtain ⟨-, -, rfl⟩ := exec_next ht
    refine absurd ?_ hcontrol
    rw [programOf_eq]
    exact drain_blocksOf_prompt (s := { s with latch := some i, result := none }) hp hc henv s.expectedId i
  · exact ⟨t, ht, hcontrol, hlatch, hresult⟩

end Sys2Proof.Machine
end

section
/-! PROOFS. Operations that are no program, erase or status write leave a reference chip's array alone, whatever state the chip is in
(20_memory.md R60): the frames they send have no effect on the array. -/

namespace Sys2Proof.Machine

/-! ## Frames without effect on the array -/

/-- A command that is no program, erase or status write. -/
def sparesArray : Wire → Bool
  | .pageProgram | .blockErase4K | .blockErase32K | .blockErase64K | .chipErase | .statusWrite => false
  | .arrayReadLF | .arrayRead | .statusRead | .writeEnable | .idRead | .uidRead | .sleep | .wake => true

theorem Chip.perform_mem {c : Chip} (hc : c.gaps = .reference) {w : Wire} (hw : sparesArray w = true) (draws : Nat) (frame : List Byte) :
    (c.perform draws (some w) frame).1.mem = c.mem := by
  have hgap : (c.gapEffect draws).1.mem = c.mem := by rw [Chip.gapEffect_reference hc]
  cases w
  case pageProgram | blockErase4K | blockErase32K | blockErase64K | chipErase | statusWrite => cases hw
  case writeEnable => simp only [Chip.perform]; split <;> [rfl; exact hgap]
  case sleep => simp only [Chip.perform]; split <;> [exact Chip.powerDown_mem c draws; exact hgap]
  case wake => simp only [Chip.perform]; split <;> [exact Chip.powerUp_mem c draws; exact hgap]
  all_goals rfl

/-- A frame of such a command ends without effect on the array, also one that the chip ignores or that disturbs it. -/
theorem Chip.deselect_mem {o : Opcodes} {c : Chip} (hc : c.gaps = .reference) {opc : Byte} (hf : c.frame.head? = some opc) {w : Wire}
    (hfind : o.find? opc = some w) (hw : sparesArray w = true) (draws : Nat) : (c.deselect o draws).1.mem = c.mem := by
  obtain ⟨rest, hframe⟩ : ∃ rest, c.frame = opc :: rest := by
    cases hl : c.frame <;> simp_all
  simp only [Chip.deselect, hframe, hfind]
  split
  · rfl
  · split
    · rw [Chip.gapEffect_reference (by exact hc)]
    · exact Chip.perform_mem (c := { c with frame := [] }) hc hw draws _

theorem Chip.gaps_of_constants {c d : Chip} (h : d.constants = c.constants) : d.gaps = c.gaps := congrArg (·.2.2.2.2.2) h

/-! ## Runs -/

/-- A reference chip with the array `m` answers. -/
def HasArray (p : Params) (m : Memory) (s : State) : Prop :=
  s.params = p ∧ ∃ c, s.env = .chip c ∧ c.gaps = .reference ∧ c.mem = m

/-- And a frame of command `w` is under way. -/
def Sending (p : Params) (m : Memory) (w : Wire) (s : State) : Prop :=
  s.params = p ∧ ∃ c, s.env = .chip c ∧ c.gaps = .reference ∧ c.mem = m ∧ c.frame.head? = some (p.opcodes.byte w)

theorem Chip.reply_frame (o : Opcodes) (c : Chip) (draws : Nat) (sent : Byte) :
    (c.reply o draws sent).2.1.frame = c.frame ++ [sent] := rfl

section
variable {p : Params} {m : Memory} {w : Wire}

theorem Sending.transfers {s : State} (h : Sending p m w s) (body : List (Out × Keep)) :
    ∃ u, (∀ ms, drain (transfers body ++ ms) s = drain ms u) ∧ Sending p m w u := by
  induction body generalizing s with
  | nil => exact ⟨s, fun _ => rfl, h⟩
  | cons t body ih =>
    obtain ⟨hp, c, henv, hc, hmem, hframe⟩ := h
    have hnext : Sending p m w (t.2.store (s.exchange (t.1.eval s)).1 (s.exchange (t.1.eval s)).2) := by
      have henv' : (s.exchange (t.1.eval s)).2.env = .chip (c.reply s.params.opcodes s.draws (t.1.eval s)).2.1 := by
        rw [State.exchange_env, henv]
        rfl
      refine ⟨by simpa using hp, _, (Keep.store_env ..).trans henv', ?_, ?_, ?_⟩
      · exact (Chip.gaps_of_constants (Chip.reply_constants ..)).trans hc
      · exact (Chip.reply_mem ..).trans hmem
      · rw [Chip.reply_frame, List.head?_append, hframe]
        rfl
    obtain ⟨u, hdrain, hu⟩ := ih hnext
    exact ⟨u, fun ms => hdrain ms, hu⟩

/-- `select()` and the opcode begin a frame, whatever frame the chip has seen before. -/
theorem HasArray.opcode (w : Wire) {s : State} (h : HasArray p m s) :
    ∃ u, (∀ ms, drain (select ++ .xfer (.opcode w) .drop :: ms) s = drain ms u) ∧ Sending p m w u := by
  obtain ⟨rfl, c, henv, hc, hmem⟩ := h
  let s₁ : State := { s with trace := s.trace ++ [.begin s.busCfg, .cs .low], busHeld := true, csLevel := .low, env := s.env.select }
  refine ⟨(s₁.exchange (s.params.opcodes.byte w)).2, fun ms => (drain_select _ s).trans rfl, rfl,
    (c.select.reply s.params.opcodes s.draws (s.params.opcodes.byte w)).2.1, ?_, ?_, ?_, ?_⟩
  · rw [State.exchange_env]
    simp [s₁, henv, Env.select, Env.reply]
  · exact (Chip.gaps_of_constants (Chip.reply_constants ..)).trans hc
  · exact (Chip.reply_mem ..).trans hmem
  · rfl

/-- A command cycle, from any state of the chip. -/
theorem HasArray.cycle (hp : p.opcodes.distinct) (hw : sparesArray w = true) {s : State} (h : HasArray p m s) (body : List (Out × Keep)) :
    ∃ u, (∀ ms, drain ((Block.cycle w body).micros ++ ms) s = drain ms u) ∧ HasArray p m u := by
  obtain ⟨u, hopcode, hu⟩ := h.opcode w
  obtain ⟨v, htransfers, rfl, c, henv, hc, hmem, hframe⟩ := hu.transfers body
  refine ⟨(perform .finish v.driveHigh).1, fun ms => ?_, rfl, (c.deselect v.params.opcodes v.draws).1, ?_, ?_, ?_⟩
  · have hmicros : (Block.cycle w body).micros ++ ms = select ++ .xfer (.opcode w) .drop :: (transfers body ++ (deselect ++ ms)) := by
      simp [Block.micros]
    rw [hmicros, hopcode, htransfers]
    rfl
  · show (v.env.deselect v.params.opcodes v.draws).1 = _
    rw [henv]
    rfl
  · exact (Chip.gaps_of_constants (Chip.deselect_constants ..)).trans hc
  · exact (Chip.deselect_mem hc hframe (Opcodes.find?_byte hp w) hw _).trans hmem

end

/-- A run keeps what every command cycle among its blocks keeps, the polls of its gates included, and every other line. -/
theorem drain_keeps_blocks {P : State → Prop} {bs : List Block}
    (hcycle : ∀ w body, .cycle w body ∈ Block.cycle .statusRead [(.fill, .st)] :: bs → ∀ s, P s →
      ∃ u, (∀ ms, drain ((Block.cycle w body).micros ++ ms) s = drain ms u) ∧ P u)
    (hline : ∀ m, .line m ∈ bs → ∀ s, P s → P (perform m s).1)
    (hc : ∀ s c l, P s → P { s with control := c, latch := l }) {s : State} (hs : P s) : P (drain (micros bs) s) := by
  induction bs generalizing s with
  | nil => exact hc s [] none hs
  | cons b bs ih =>
    have ih {u : State} (hu : P u) : P (drain (micros bs) u) := ih
      (fun w body hb => hcycle w body (List.mem_cons.mpr ((List.mem_cons.mp hb).imp_right (List.mem_cons_of_mem _))))
      (fun m hb => hline m (List.mem_cons_of_mem _ hb)) hu
    rw [micros_cons]
    cases b with
    | gate =>
      obtain ⟨u, hpoll, hu⟩ := hcycle .statusRead [(.fill, .st)] (by simp) s hs
      have hgate : drain (Block.gate.micros ++ micros bs) s = drain (.gateTest :: micros bs) u := hpoll (.gateTest :: micros bs)
      rw [hgate]
      cases hst : busyBit u.st with
      | false =>
        rw [drain_gateTest_ready hst]
        exact ih hu
      | true =>
        rw [drain_gateTest_busy hst]
        exact hc u _ u.latch hu
    | cycle w body =>
      obtain ⟨u, hdrain, hu⟩ := hcycle w body (by simp) s hs
      rw [hdrain]
      exact ih hu
    | line m =>
      have hm := hline m (by simp) s hs
      show P (drain (m :: micros bs) s)
      rcases hp : perform m s with ⟨u, f⟩
      rw [hp] at hm
      cases f with
      | go => rw [drain_go hp]; exact ih hm
      | again => rw [drain_again hp]; exact hc u _ u.latch hm
      | halt => rw [drain_halt hp]; exact hc u _ u.latch hm

/-! ## The operations -/

/-- The block sends no command with an effect on the array, and is no lone event of the bus. -/
def Block.sparing : Block → Bool
  | .cycle w _ => sparesArray w
  | .line (.xfer _ _) | .line .csLow | .line .csHigh => false
  | _ => true

theorem blocksOf_sparing (p : Params) (e : Ident) {i : Instr} (hi : changesChip i = false) : (blocksOf p e i).all Block.sparing = true := by
  have hplain := all_plainBlocks (f := Block.sparing) rfl p
  cases i
  case pageProgram | blockErase4KCmd | blockErase32KCmd | blockErase64KCmd | chipEraseCmd | statusWrite | writeByte | writeBytes
    | eraseBlock4K | eraseBlock32K | eraseBlock64K | eraseChip | initDevice => cases hi
  all_goals
    simp only [blocksOf, bodyBlocks, readBlocks, idBlocks, uidBlocks, sampleBlocks, List.all_append, List.all_cons, List.all_nil,
      List.all_flatMap, hplain]
  all_goals simp [Block.sparing, sparesArray]

theorem perform_line_hasArray {m : Micro} (hm : (Block.line m).sparing = true) {p : Params} {mem : Memory} {s : State}
    (h : HasArray p mem s) : HasArray p mem (perform m s).1 := by
  cases m
  case xfer | csLow | csHigh => cases hm
  case checkId | judge => simp only [perform]; split <;> exact h
  all_goals exact h

theorem Runs.flash {i : Instr} (hi : changesChip i = false) {s t : State} (h : Runs i s t) (hp : s.params.opcodes.distinct) {c : Chip}
    (henv : s.env = .chip c) (hc : c.gaps = .reference) : t.flash = c.mem := by
  obtain ⟨bs, q, l, r, hbs, rfl⟩ := h
  have hsparing (b : Block) (hb : b ∈ bs) := List.all_eq_true.mp (blocksOf_sparing s.params s.expectedId hi) b (hbs.subset hb)
  obtain ⟨-, d, hd, -, hmem⟩ : HasArray s.params c.mem (drain (micros bs) { s with requests := q, latch := l, result := r }) := by
    refine drain_keeps_blocks (fun w body hb u hu => hu.cycle hp ?_ body) (fun m hb u hu => perform_line_hasArray (hsparing _ hb) hu)
      (fun _ _ _ hu => hu) ⟨rfl, c, henv, hc, rfl⟩
    rcases List.mem_cons.mp hb with hpoll | hb
    · obtain ⟨rfl, -⟩ := Block.cycle.inj hpoll
      rfl
    · exact hsparing _ hb
  rw [State.flash, hd]
  exact hmem

/-- Settles O60: neither a poll nor any command of such an operation has an effect on the array. -/
theorem readsKeepFlash : Obligations.ReadsKeepFlash :=
  ⟨fun _ _ _ _ hp henv hc hi h => (exec_runs h).flash hi hp henv hc,
    fun _ _ _ _ hp henv hc hi hs hrun h => (step_runs hs hrun h).flash hi hp henv hc⟩

end Sys2Proof.Machine
end
